-- ==== Sys2Proof/Word.lean ====
section
/-! DEFINITION. The widths the spec gives its values: bytes, 16-bit words, and the instruction's 4-bit and
12-bit fields (00_scope.md R8, 30_encoding.md R102). Every value is unsigned. -/

namespace Sys2Proof

/-- An 8-bit value: a register, a memory byte, a timer, a byte immediate. -/
abbrev Byte := BitVec 8

/-- A 16-bit value: the pc, I, a stack entry, an instruction word. -/
abbrev Word := BitVec 16

/-- A 4-bit field: a register index (`x`, `y`) or the sprite height (`n`). -/
abbrev Nibble := BitVec 4

/-- The 12-bit address immediate `nnn`. -/
abbrev Addr := BitVec 12

end Sys2Proof
end

