-- ==== Sys2Proof/Syntax.lean ====
section
/-! DEFINITION. The 35 operations of 30_encoding.md R106, one constructor per row of spec/opcode_table.json, with
every field its encoding carries (R102, R103). -/

namespace Sys2Proof

/-- An instruction with its fields. `x` and `y` are register indexes, `kk` a byte, `n` a sprite height, `nnn` an
address. -/
inductive Instr where
  /-- 0nnn `SYS addr` (R140) -/
  | sys (nnn : Addr)
  /-- 00E0 `CLS` (R224) -/
  | cls
  /-- 00EE `RET` (R141) -/
  | ret
  /-- 1nnn `JP addr` (R142) -/
  | jp (nnn : Addr)
  /-- 2nnn `CALL addr` (R143) -/
  | call (nnn : Addr)
  /-- 3xkk `SE Vx, byte` (R144) -/
  | seByte (x : Nibble) (kk : Byte)
  /-- 4xkk `SNE Vx, byte` (R145) -/
  | sneByte (x : Nibble) (kk : Byte)
  /-- 5xy0 `SE Vx, Vy` (R146) -/
  | seReg (x y : Nibble)
  /-- 6xkk `LD Vx, byte` (R183) -/
  | ldByte (x : Nibble) (kk : Byte)
  /-- 7xkk `ADD Vx, byte` (R184) -/
  | addByte (x : Nibble) (kk : Byte)
  /-- 8xy0 `LD Vx, Vy` (R185) -/
  | ldReg (x y : Nibble)
  /-- 8xy1 `OR Vx, Vy` (R186) -/
  | orReg (x y : Nibble)
  /-- 8xy2 `AND Vx, Vy` (R187) -/
  | andReg (x y : Nibble)
  /-- 8xy3 `XOR Vx, Vy` (R188) -/
  | xorReg (x y : Nibble)
  /-- 8xy4 `ADD Vx, Vy` (R189) -/
  | addReg (x y : Nibble)
  /-- 8xy5 `SUB Vx, Vy` (R190) -/
  | subReg (x y : Nibble)
  /-- 8xy6 `SHR Vx {, Vy}` (R191); `y` is encoded and ignored -/
  | shr (x y : Nibble)
  /-- 8xy7 `SUBN Vx, Vy` (R192) -/
  | subnReg (x y : Nibble)
  /-- 8xyE `SHL Vx {, Vy}` (R193); `y` is encoded and ignored -/
  | shl (x y : Nibble)
  /-- 9xy0 `SNE Vx, Vy` (R147) -/
  | sneReg (x y : Nibble)
  /-- Annn `LD I, addr` (R280) -/
  | ldI (nnn : Addr)
  /-- Bnnn `JP V0, addr` (R148) -/
  | jpV0 (nnn : Addr)
  /-- Cxkk `RND Vx, byte` (R194) -/
  | rnd (x : Nibble) (kk : Byte)
  /-- Dxyn `DRW Vx, Vy, nibble` (R225) -/
  | drw (x y n : Nibble)
  /-- Ex9E `SKP Vx` (R251) -/
  | skp (x : Nibble)
  /-- ExA1 `SKNP Vx` (R252) -/
  | sknp (x : Nibble)
  /-- Fx07 `LD Vx, DT` (R253) -/
  | ldVxDT (x : Nibble)
  /-- Fx0A `LD Vx, K` (R254) -/
  | ldVxK (x : Nibble)
  /-- Fx15 `LD DT, Vx` (R255) -/
  | ldDTVx (x : Nibble)
  /-- Fx18 `LD ST, Vx` (R256) -/
  | ldSTVx (x : Nibble)
  /-- Fx1E `ADD I, Vx` (R281) -/
  | addI (x : Nibble)
  /-- Fx29 `LD F, Vx` (R282) -/
  | ldF (x : Nibble)
  /-- Fx33 `LD B, Vx` (R283) -/
  | ldB (x : Nibble)
  /-- Fx55 `LD [I], Vx` (R284) -/
  | storeRegs (x : Nibble)
  /-- Fx65 `LD Vx, [I]` (R285) -/
  | loadRegs (x : Nibble)
  deriving DecidableEq, Repr

end Sys2Proof
end

