-- ==== Sys2Proof/WellFormed.lean ====
section
/-! DEFINITION. Which terms of `Instr` are instructions of the hardware: the fields' types bound every operand, and
one check is left, that `SYS` does not take the two words of `CLS` and `RET` (30_encoding.md R105). -/

namespace Sys2Proof

/-- A term some word decodes to. `SYS` is every 0nnn except 00E0 and 00EE (30_encoding.md R105, 40_control_flow.md
R140). -/
def Instr.wf : Instr → Bool
  | .sys nnn => nnn != 0x0E0#12 && nnn != 0x0EE#12
  | .cls => true
  | .ret => true
  | .jp _ => true
  | .call _ => true
  | .seByte _ _ => true
  | .sneByte _ _ => true
  | .seReg _ _ => true
  | .ldByte _ _ => true
  | .addByte _ _ => true
  | .ldReg _ _ => true
  | .orReg _ _ => true
  | .andReg _ _ => true
  | .xorReg _ _ => true
  | .addReg _ _ => true
  | .subReg _ _ => true
  | .shr _ _ => true
  | .subnReg _ _ => true
  | .shl _ _ => true
  | .sneReg _ _ => true
  | .ldI _ => true
  | .jpV0 _ => true
  | .rnd _ _ => true
  | .drw _ _ _ => true
  | .skp _ => true
  | .sknp _ => true
  | .ldVxDT _ => true
  | .ldVxK _ => true
  | .ldDTVx _ => true
  | .ldSTVx _ => true
  | .addI _ => true
  | .ldF _ => true
  | .ldB _ => true
  | .storeRegs _ => true
  | .loadRegs _ => true

end Sys2Proof
end

