-- ==== Sys2Proof/Decode.lean ====
section
/-! DEFINITION. The decoder of 30_encoding.md R105 on words and on bytes, total, naming what it rejects; then the
encoder, written from the same layouts (R103, R106). -/

namespace Sys2Proof

/-- What a word decodes to: one of the 35 operations, or `Unimplemented` with the word (30_encoding.md R105, R107). -/
inductive Decoded where
  | op (i : Instr)
  | unimplemented (w : Word)
  deriving DecidableEq, Repr

/-- What a byte stream begins with. -/
inductive DecodedBytes where
  /-- an operation, and the bytes after it -/
  | op (i : Instr) (rest : List Byte)
  /-- a word outside the 35 operations, and the bytes after it -/
  | unimplemented (w : Word) (rest : List Byte)
  /-- fewer than the two bytes every instruction has (R100) -/
  | truncated
  deriving DecidableEq, Repr

/-! ### The fields of a word (30_encoding.md R102) -/

/-- `op` = w[15:12] -/
def opOf (w : Word) : Nibble := w.extractLsb' 12 4
/-- `x` = w[11:8] -/
def xOf (w : Word) : Nibble := w.extractLsb' 8 4
/-- `y` = w[7:4] -/
def yOf (w : Word) : Nibble := w.extractLsb' 4 4
/-- `n` = w[3:0] -/
def nOf (w : Word) : Nibble := w.extractLsb' 0 4
/-- `kk` = w[7:0] -/
def kkOf (w : Word) : Byte := w.extractLsb' 0 8
/-- `nnn` = w[11:0] -/
def nnnOf (w : Word) : Addr := w.extractLsb' 0 12

/-- The word of two bytes, big-endian: the first byte is bits 15:8 (20_memory.md R78). -/
def wordOfBytes (hi lo : Byte) : Word := hi ++ lo

/-- The byte at the lower address, bits 15:8. -/
def hiByte (w : Word) : Byte := w.extractLsb' 8 8

/-- The byte at the higher address, bits 7:0. -/
def loByte (w : Word) : Byte := w.extractLsb' 0 8

/-! ### The opcode map (30_encoding.md R105) -/

/-- The 0 family: the exact words 00E0 and 00EE take precedence over `SYS`. -/
def decode0 (w : Word) : Decoded :=
  if w = 0x00E0#16 then .op .cls
  else if w = 0x00EE#16 then .op .ret
  else .op (.sys (nnnOf w))

/-- The 8 family, keyed by the low nibble. -/
def decode8 (w : Word) : Decoded :=
  match nOf w with
  | 0x0#4 => .op (.ldReg (xOf w) (yOf w))
  | 0x1#4 => .op (.orReg (xOf w) (yOf w))
  | 0x2#4 => .op (.andReg (xOf w) (yOf w))
  | 0x3#4 => .op (.xorReg (xOf w) (yOf w))
  | 0x4#4 => .op (.addReg (xOf w) (yOf w))
  | 0x5#4 => .op (.subReg (xOf w) (yOf w))
  | 0x6#4 => .op (.shr (xOf w) (yOf w))
  | 0x7#4 => .op (.subnReg (xOf w) (yOf w))
  | 0xE#4 => .op (.shl (xOf w) (yOf w))
  | _ => .unimplemented w

/-- The E family, keyed by the low byte. -/
def decodeE (w : Word) : Decoded :=
  match kkOf w with
  | 0x9E#8 => .op (.skp (xOf w))
  | 0xA1#8 => .op (.sknp (xOf w))
  | _ => .unimplemented w

/-- The F family, keyed by the low byte. -/
def decodeF (w : Word) : Decoded :=
  match kkOf w with
  | 0x07#8 => .op (.ldVxDT (xOf w))
  | 0x0A#8 => .op (.ldVxK (xOf w))
  | 0x15#8 => .op (.ldDTVx (xOf w))
  | 0x18#8 => .op (.ldSTVx (xOf w))
  | 0x1E#8 => .op (.addI (xOf w))
  | 0x29#8 => .op (.ldF (xOf w))
  | 0x33#8 => .op (.ldB (xOf w))
  | 0x55#8 => .op (.storeRegs (xOf w))
  | 0x65#8 => .op (.loadRegs (xOf w))
  | _ => .unimplemented w

/-- Decode(w) of 30_encoding.md R105, total on all 65536 words and free of any state or parameter (R116). -/
def decode (w : Word) : Decoded :=
  match opOf w with
  | 0x0#4 => decode0 w
  | 0x1#4 => .op (.jp (nnnOf w))
  | 0x2#4 => .op (.call (nnnOf w))
  | 0x3#4 => .op (.seByte (xOf w) (kkOf w))
  | 0x4#4 => .op (.sneByte (xOf w) (kkOf w))
  | 0x5#4 => if nOf w = 0x0#4 then .op (.seReg (xOf w) (yOf w)) else .unimplemented w
  | 0x6#4 => .op (.ldByte (xOf w) (kkOf w))
  | 0x7#4 => .op (.addByte (xOf w) (kkOf w))
  | 0x8#4 => decode8 w
  | 0x9#4 => if nOf w = 0x0#4 then .op (.sneReg (xOf w) (yOf w)) else .unimplemented w
  | 0xA#4 => .op (.ldI (nnnOf w))
  | 0xB#4 => .op (.jpV0 (nnnOf w))
  | 0xC#4 => .op (.rnd (xOf w) (kkOf w))
  | 0xD#4 => .op (.drw (xOf w) (yOf w) (nOf w))
  | 0xE#4 => decodeE w
  | _ => decodeF w

/-- The decoder on bytes as memory holds them: every instruction is two bytes, big-endian (30_encoding.md R100). -/
def decodeBytes : List Byte → DecodedBytes
  | hi :: lo :: rest =>
    match decode (wordOfBytes hi lo) with
    | .op i => .op i rest
    | .unimplemented w => .unimplemented w rest
  | _ => .truncated

/-! ### The encoder (30_encoding.md R103, R106) -/

/-- Format A: `oooo nnnn nnnn nnnn`. -/
def wordA (op : Nibble) (nnn : Addr) : Word := op ++ nnn

/-- Format XK: `oooo xxxx kkkk kkkk`; also format X, whose sub-operation is the low byte. -/
def wordXK (op x : Nibble) (kk : Byte) : Word := op ++ x ++ kk

/-- Format XYN: `oooo xxxx yyyy nnnn`; also format XY, whose sub-operation is the low nibble. -/
def wordXYN (op x y n : Nibble) : Word := op ++ x ++ y ++ n

/-- The word of an instruction. -/
def encode : Instr → Word
  | .sys nnn => wordA 0x0 nnn
  | .cls => 0x00E0
  | .ret => 0x00EE
  | .jp nnn => wordA 0x1 nnn
  | .call nnn => wordA 0x2 nnn
  | .seByte x kk => wordXK 0x3 x kk
  | .sneByte x kk => wordXK 0x4 x kk
  | .seReg x y => wordXYN 0x5 x y 0x0
  | .ldByte x kk => wordXK 0x6 x kk
  | .addByte x kk => wordXK 0x7 x kk
  | .ldReg x y => wordXYN 0x8 x y 0x0
  | .orReg x y => wordXYN 0x8 x y 0x1
  | .andReg x y => wordXYN 0x8 x y 0x2
  | .xorReg x y => wordXYN 0x8 x y 0x3
  | .addReg x y => wordXYN 0x8 x y 0x4
  | .subReg x y => wordXYN 0x8 x y 0x5
  | .shr x y => wordXYN 0x8 x y 0x6
  | .subnReg x y => wordXYN 0x8 x y 0x7
  | .shl x y => wordXYN 0x8 x y 0xE
  | .sneReg x y => wordXYN 0x9 x y 0x0
  | .ldI nnn => wordA 0xA nnn
  | .jpV0 nnn => wordA 0xB nnn
  | .rnd x kk => wordXK 0xC x kk
  | .drw x y n => wordXYN 0xD x y n
  | .skp x => wordXK 0xE x 0x9E
  | .sknp x => wordXK 0xE x 0xA1
  | .ldVxDT x => wordXK 0xF x 0x07
  | .ldVxK x => wordXK 0xF x 0x0A
  | .ldDTVx x => wordXK 0xF x 0x15
  | .ldSTVx x => wordXK 0xF x 0x18
  | .addI x => wordXK 0xF x 0x1E
  | .ldF x => wordXK 0xF x 0x29
  | .ldB x => wordXK 0xF x 0x33
  | .storeRegs x => wordXK 0xF x 0x55
  | .loadRegs x => wordXK 0xF x 0x65

/-- The bytes of an instruction as memory holds them, lowest address first. -/
def encodeBytes (i : Instr) : List Byte := [hiByte (encode i), loByte (encode i)]

/-! ### The host's table words -/

/-- The instruction word whose low `nbits` bits are those of `w`, every bit above them 0. The spec's instructions
have one 16-bit word, so bit 0 of the table's number is bit 0 of the word. -/
def tableWord (nbits w : Nat) : Word := BitVec.ofNat 16 (w % 2 ^ nbits)

/-- The instruction the decoder reads from the table's word, laid out big-endian as the hardware stores it. No
instruction is longer than 16 bits (30_encoding.md R100). -/
def decodeTableWord (nbits w : Nat) : Option Instr :=
  if 16 < nbits then none
  else
    match decodeBytes [hiByte (tableWord nbits w), loByte (tableWord nbits w)] with
    | .op i _ => some i
    | .unimplemented _ _ => none
    | .truncated => none

end Sys2Proof
end

