-- ==== Sys2Proof/Machine/Agents.lean ====
section
/-! DEFINITION. The agents and what they can choose: the loops, the control messages, the host's transactions, and the
transitions an interleaving is made of (60_exceptions.md R323 to R335; 20_memory.md R85, R87). -/

namespace Sys2Proof.Machine

/-- The three loops (10_state.md R45). -/
inductive Loop where
  | cpu
  | timer
  | display
  deriving DecidableEq, Repr

/-- The three control messages (60_exceptions.md R325 to R327). -/
inductive Msg where
  | start
  | stop
  | step
  deriving DecidableEq, Repr

/-- The host's transactions (60_exceptions.md R335). -/
inductive HostOp where
  | reset
  | load (bytes : List Byte)
  | send (l : Loop) (m : Msg)
  | trigger (l : Loop)
  | keySet (k : Nat)
  | keyClear (k : Nat)
  | keyQuery (k : Nat)
  | readFrame
  | readStatus
  /-- the random draw of R335: the host supplies the byte a later `RandomByte()` returns -/
  | supplyRandom (b : Byte)
  deriving DecidableEq, Repr

/-- One transition the environment chooses: the next transition of a loop's pass (60_exceptions.md R324), or a host
transaction. -/
inductive Action where
  | pass (l : Loop)
  | host (op : HostOp)
  deriving DecidableEq, Repr

/-- The three loops. -/
def allLoops : List Loop := [.cpu, .timer, .display]

end Sys2Proof.Machine
end

