-- ==== Sys2Proof/Config.lean ====
section
/-! DEFINITION. What an implementation fixes: the constants and parameters of 00_scope.md R7, and the two free
values of the model. The parameters' defaults stand in Machine/Defaults.lean. -/

namespace Sys2Proof.Config

/-- `MEM_SIZE` (00_scope.md R7). -/
abbrev memSize : Nat := 4096
/-- `PROG_BASE` (00_scope.md R7). -/
abbrev progBase : Nat := 0x200
/-- `PROG_MAX` (00_scope.md R7): 4096 − 0x200. -/
abbrev progMax : Nat := 3584
/-- Bytes of the font: 16 glyphs × 5 bytes at 0x000 to 0x04F (20_memory.md R74, R75). -/
abbrev fontBytes : Nat := 80

/-- `SUB_WRITE_POLICY` (41_register_alu.md R182): whether `SUB` writes Vx on a borrow. -/
inductive SubWritePolicy where
  | writeAlways
  | writeIfNoBorrow
  deriving DecidableEq, Repr

/-- `UNIMPL_POLICY` (60_exceptions.md R313, R319): what an unimplemented word does. -/
inductive UnimplPolicy where
  /-- `Fault` -/
  | faults
  /-- `Continue` -/
  | continues
  deriving DecidableEq, Repr

/-- `KEY_OPCODES_MODE` (43_keyboard_timers.md R250): whether SKP, SKNP and LD Vx, K work or are no-ops. -/
inductive KeyMode where
  | implemented
  | stubbed
  deriving DecidableEq, Repr

/-- The run flag of a loop: two states (10_state.md R45, 90_conflicts.md C3). -/
inductive RunFlag where
  | stopped
  | running
  deriving DecidableEq, Repr

/-- `FONT_TABLE` (20_memory.md R76): 16 glyphs of 5 rows, one byte a row, top row first. -/
abbrev Font := Vector (Vector Byte 5) 16

/-- The parameters of 00_scope.md R7 that a rule reads. -/
structure Params where
  /-- `SUB_WRITE_POLICY` -/
  subWrite : SubWritePolicy
  /-- `UNIMPL_POLICY` -/
  unimplPolicy : UnimplPolicy
  /-- `KEY_OPCODES_MODE` -/
  keyMode : KeyMode
  /-- `INITIAL_RUN_STATE` of the CPU loop -/
  initialRunCpu : RunFlag
  /-- `INITIAL_RUN_STATE` of the Timer loop -/
  initialRunTimer : RunFlag
  /-- `INITIAL_RUN_STATE` of the Display loop -/
  initialRunDisplay : RunFlag
  /-- `CTRL_QUEUE_DEPTH`: `none` is unbounded; a depth is at least 1 (log 15) -/
  queueDepth : Option Nat
  /-- `TRACE_ENABLE` -/
  traceEnable : Bool
  /-- `FONT_TABLE` -/
  font : Font
  deriving DecidableEq, Repr

/-- The byte `RandomByte()` returns at the n-th draw for which the host supplied none: a free value, with no law
relating one draw to another (41_register_alu.md R195; log 4). It has no body: nothing is known of it. -/
opaque randomByte : Nat → Byte

/-- What the environment chooses in its n-th round: any finite list of passes and host transactions. A free value: the
interleaving is open (20_memory.md R87; log 2). It has no body: nothing is known of it. -/
opaque freeRound : Nat → List Machine.Action

end Sys2Proof.Config
end

