-- ==== Sys2Proof/Machine/Defaults.lean ====
section
/-! DEFINITION. The default values of the parameters (00_scope.md R7): the font of 20_memory.md R76 and the default
of each policy. -/

namespace Sys2Proof.Machine

/-- The default `FONT_TABLE` (20_memory.md R76), glyphs 0 to F, top row first; the spec marks the bytes as general
knowledge (PRESUMED, log 10). -/
def standardFont : Config.Font :=
  #v[#v[0xF0, 0x90, 0x90, 0x90, 0xF0],
     #v[0x20, 0x60, 0x20, 0x20, 0x70],
     #v[0xF0, 0x10, 0xF0, 0x80, 0xF0],
     #v[0xF0, 0x10, 0xF0, 0x10, 0xF0],
     #v[0x90, 0x90, 0xF0, 0x10, 0x10],
     #v[0xF0, 0x80, 0xF0, 0x10, 0xF0],
     #v[0xF0, 0x80, 0xF0, 0x90, 0xF0],
     #v[0xF0, 0x10, 0x20, 0x40, 0x40],
     #v[0xF0, 0x90, 0xF0, 0x90, 0xF0],
     #v[0xF0, 0x90, 0xF0, 0x10, 0xF0],
     #v[0xF0, 0x90, 0xF0, 0x90, 0x90],
     #v[0xE0, 0x90, 0xE0, 0x90, 0xE0],
     #v[0xF0, 0x80, 0x80, 0x80, 0xF0],
     #v[0xE0, 0x90, 0x90, 0x90, 0xE0],
     #v[0xF0, 0x80, 0xF0, 0x80, 0xF0],
     #v[0xF0, 0x80, 0xF0, 0x80, 0x80]]

/-- The defaults of 00_scope.md R7. -/
def defaultParams : Config.Params where
  subWrite := .writeAlways
  unimplPolicy := .faults
  keyMode := .implemented
  initialRunCpu := .stopped
  initialRunTimer := .stopped
  initialRunDisplay := .stopped
  queueDepth := none
  traceEnable := true
  font := standardFont

end Sys2Proof.Machine
end

