-- ==== Sys2Proof/Machine/State.lean ====
section
/-! DEFINITION. The machine's state as plain data: every part 10_state.md R30 lists, then the model's own fields
(parameters, the environment's choices, the outputs). The list with rules and reset values is INVENTORY.md's
'## State'. -/

namespace Sys2Proof.Machine

/-- The fault causes of 60_exceptions.md R311 that can be raised, and the reserved REG_INDEX. -/
inductive Cause where
  | fetchAddr
  | dataAddr
  | stackOverflow
  | stackUnderflow
  | keyIndex
  | unimplemented
  | regIndex
  deriving DecidableEq, Repr

/-- `raise F(info)`: a cause with what `fault_info` records (00_scope.md R11, 60_exceptions.md R311). -/
structure Raise where
  cause : Cause
  info : Word
  deriving DecidableEq, Repr

/-- One loop's control state: run flag (10_state.md R45), message queue, head first (R46), tick-pending bit (R47),
and whether the pass under way still has its transition B to do (60_exceptions.md R324; DEDUCED, log 6). -/
structure LoopState where
  run : Config.RunFlag
  queue : List Msg
  due : Bool
  midPass : Bool
  deriving DecidableEq, Repr

/-- The fault record (10_state.md R48); cause 0 is NONE. -/
structure FaultRecord where
  cause : Byte
  pc : Word
  info : Word
  deriving DecidableEq, Repr

/-- The unimplemented-opcode record (10_state.md R49). -/
structure UnimplRecord where
  seen : Bool
  pc : Word
  word : Word
  deriving DecidableEq, Repr

/-- The 64 × 32 grid (10_state.md R43): 32 rows of 64 pixels, row 0 at the top. -/
abbrev Framebuffer := Vector (Vector Bool 64) 32

/-- Memory as (address, byte) cells in the canonical form `Memory.wf` (Machine/Ops.lean): what no cell lists reads
as the reset contents. -/
abbrev Memory := List Host.Cell

/-- What `read_status()` returns (60_exceptions.md R338). -/
structure Status where
  cpuRun : Config.RunFlag
  timerRun : Config.RunFlag
  displayRun : Config.RunFlag
  fault : FaultRecord
  unimpl : UnimplRecord
  deriving DecidableEq, Repr

/-- The result of a program load (20_memory.md R84). -/
inductive LoadResult where
  | ok
  | tooLong
  deriving DecidableEq, Repr

/-- What the block emits and what host transactions return (60_exceptions.md R335). -/
inductive Output where
  /-- a completed CPU step (R337) -/
  | trace (pc w : Word)
  /-- fault entry (R313) -/
  | faultReport (code : Byte) (pc info : Word)
  /-- an unimplemented word under `Continue` (R319) -/
  | unimplReport (pc w : Word)
  /-- unit(Display), as the full-grid snapshot of 42_display.md R227 (log 13) -/
  | frame (fb : Framebuffer)
  /-- the result of `load` -/
  | loaded (r : LoadResult)
  /-- the result of `key_query(k)` -/
  | keyState (k : Nat) (held : Bool)
  /-- a key operation with k outside 0 to 15 is refused by the interface (R336; log 14) -/
  | keyRefused (k : Nat)
  /-- the result of `read_frame()` -/
  | frameRead (fb : Framebuffer)
  /-- the result of `read_status()` -/
  | status (st : Status)
  deriving DecidableEq, Repr

/-- The state. -/
structure State where
  /-- V0 to VF (10_state.md R31) -/
  v : Vector Byte 16
  /-- the address register I (R34) -/
  iReg : Word
  /-- the program counter (R35) -/
  pc : Word
  /-- the stack pointer, legal values 0 to 15 (R39) -/
  sp : Byte
  /-- the 16 stack entries (R40) -/
  stack : Vector Word 16
  /-- the delay timer DT (R41) -/
  dt : Byte
  /-- the sound timer ST (R41) -/
  st : Byte
  /-- the key mask (R42) -/
  keys : Word
  /-- the framebuffer (R43) -/
  fb : Framebuffer
  /-- memory (R44) -/
  mem : Memory
  /-- control state of the CPU loop (R45 to R47) -/
  cpuLoop : LoopState
  /-- control state of the Timer loop -/
  timerLoop : LoopState
  /-- control state of the Display loop -/
  displayLoop : LoopState
  /-- the fault record (R48) -/
  fault : FaultRecord
  /-- the unimplemented-opcode record (R49) -/
  unimpl : UnimplRecord
  /-- the model's own: the parameters, never written (log 1) -/
  params : Config.Params
  /-- the model's own: the transitions the environment chose next, in order (log 2) -/
  agenda : List Action
  /-- the model's own: how many rounds the environment chose by the free value `Config.freeRound` (log 2) -/
  rounds : Nat
  /-- the model's own: supplied random bytes not yet drawn (log 4) -/
  draws : List Byte
  /-- the model's own: how many draws used the free value `Config.randomByte` (log 4) -/
  drawCount : Nat
  /-- the model's own: everything emitted so far, newest first (log 5) -/
  out : List Output
  deriving DecidableEq, Repr

/-- Reasons the model stops. -/
inductive Fault where
  /-- Raised by `CALL` and `RET` when sp is outside 0 to 15, so that the stack entry they use does not exist: the
  spec gives no meaning to such a state (10_state.md R39), and no run reaches one. Safe: the model stops where the
  spec says nothing (log 8). -/
  | spOutOfRange
  deriving DecidableEq, Repr

/-- Reasons the model has no meaning. -/
inductive Refusal where
  /-- Raised by an arm of `exec` whose instruction has no meaning yet; no arm of this model does. Safe. -/
  | notModelled (mnemonic : String)
  deriving DecidableEq, Repr

/-- A loop's control state after reset (10_state.md R51). -/
def LoopState.reset (run : Config.RunFlag) : LoopState :=
  { run := run, queue := [], due := false, midPass := false }

/-- Every piece of state at its reset value (10_state.md R51), under the given parameters; nothing chosen, supplied
or emitted yet. -/
def State.powerOn (p : Config.Params) : State where
  v := Vector.replicate 16 0
  iReg := 0
  pc := 0x200
  sp := 0
  stack := Vector.replicate 16 0
  dt := 0
  st := 0
  keys := 0
  fb := Vector.replicate 32 (Vector.replicate 64 false)
  mem := []
  cpuLoop := .reset p.initialRunCpu
  timerLoop := .reset p.initialRunTimer
  displayLoop := .reset p.initialRunDisplay
  fault := { cause := 0, pc := 0, info := 0 }
  unimpl := { seen := false, pc := 0, word := 0 }
  params := p
  agenda := []
  rounds := 0
  draws := []
  drawCount := 0
  out := []

/-- The machine right after reset, with the default parameters (10_state.md R51, 70_reset_and_hazards.md R390). -/
def State.reset : State := State.powerOn defaultParams

end Sys2Proof.Machine
end

