-- ==== Sys2Proof/Machine/Ops.lean ====
section
/-! DEFINITION. The named operations over registers, memory, stack, framebuffer, loops and outputs; fetch; fault
entry, and the end of a CPU unit of work. -/

namespace Sys2Proof.Machine

open Sys2Proof.Config

/-! ### General registers and the other registers -/

/-- `V[x]` (00_scope.md R9). -/
def State.reg (s : State) (x : Nibble) : Byte := s.v[x.toNat]

/-- `V[x] <- b`. -/
def State.setReg (s : State) (x : Nibble) (b : Byte) : State := { s with v := s.v.set x.toNat b }

/-- VF, the flag register (10_state.md R32). -/
abbrev vf : Nibble := 0xF#4

/-- `I <- a`. -/
def State.setI (s : State) (a : Word) : State := { s with iReg := a }

/-- `pc <- a` (00_scope.md R11). -/
def State.setPc (s : State) (a : Word) : State := { s with pc := a }

/-- `DT <- b`. -/
def State.setDt (s : State) (b : Byte) : State := { s with dt := b }

/-- `ST <- b`. -/
def State.setSt (s : State) (b : Byte) : State := { s with st := b }

/-- `keys <- k`. -/
def State.setKeys (s : State) (k : Word) : State := { s with keys := k }

/-- The default advance (30_encoding.md R114). -/
def State.advance (s : State) : State := s.setPc (s.pc + 2)

/-- `skip_if(c)` (00_scope.md R11): pc + 4 when c holds, else pc + 2. -/
def State.skipIf (s : State) (c : Bool) : State := s.setPc (if c then s.pc + 4 else s.pc + 2)

/-! ### The stack (10_state.md R39, R40) -/

/-- `stack[j]`, if there is such an entry. -/
def State.stackEntry (s : State) (j : Nat) : Option Word := s.stack[j]?

/-- `sp <- j; stack[j] <- a`. -/
def State.pushAt (s : State) (j : Byte) (a : Word) : State :=
  { s with sp := j, stack := s.stack.setIfInBounds j.toNat a }

/-- `sp <- j`. -/
def State.setSp (s : State) (j : Byte) : State := { s with sp := j }

/-! ### Memory (20_memory.md R70 to R82) -/

/-- What an address no cell lists reads as: the reset contents, the font at 0x000 to 0x04F and 0x00 elsewhere
(10_state.md R51, 20_memory.md R74, R75; log 9). -/
def Memory.unlisted (font : Font) (a : Nat) : Byte :=
  if h : a < fontBytes then
    (font[a / 5]'(by have : a < 80 := h; omega))[a % 5]'(by omega)
  else 0

/-- The first cell of an address. -/
def Memory.lookup : Memory → Nat → Option Byte
  | [], _ => none
  | (k, b) :: m, a => if k = a then some b else Memory.lookup m a

/-- The byte at an address. -/
def Memory.read (font : Font) (m : Memory) (a : Nat) : Byte :=
  (Memory.lookup m a).getD (Memory.unlisted font a)

/-- Set the byte at an address, keeping the canonical form: a byte equal to what the address reads as unlisted takes
no cell. -/
def Memory.write (font : Font) : Memory → Nat → Byte → Memory
  | [], a, b => if b = Memory.unlisted font a then [] else [(a, b)]
  | (k, c) :: m, a, b =>
    if a < k then (if b = Memory.unlisted font a then (k, c) :: m else (a, b) :: (k, c) :: m)
    else if a = k then (if b = Memory.unlisted font a then m else (a, b) :: m)
    else (k, c) :: Memory.write font m a b

/-- Set the bytes at `a`, `a + 1`, … in that order. -/
def Memory.writeMany (font : Font) : Memory → Nat → List Byte → Memory
  | m, _, [] => m
  | m, a, b :: bs => Memory.writeMany font (Memory.write font m a b) (a + 1) bs

/-- The canonical form: addresses strictly rising and inside the memory, no cell equal to what its address reads as
unlisted. -/
abbrev Memory.wf (font : Font) (m : Memory) : Prop :=
  m.Pairwise (fun c d => c.1 < d.1) ∧ ∀ c ∈ m, c.1 < memSize ∧ c.2 ≠ Memory.unlisted font c.1

/-- `mem[a]` (20_memory.md R71); every use checks its range first (R82). -/
def State.byteAt (s : State) (a : Nat) : Byte := Memory.read s.params.font s.mem a

/-- `MemWrite` of bytes at `a`, `a + 1`, … (20_memory.md R71); every use checks its range first (R82). -/
def State.storeBytes (s : State) (a : Nat) (bs : List Byte) : State :=
  { s with mem := Memory.writeMany s.params.font s.mem a bs }

/-! ### The framebuffer (42_display.md R220, R222) -/

/-- `fb(px, py)`, every coordinate modulo width and height (42_display.md R220). -/
def Framebuffer.pixel (fb : Framebuffer) (px py : Nat) : Bool :=
  (fb[py % 32]'(by omega))[px % 64]'(by omega)

/-- `fb(px, py) <- fb(px, py) ^ 1`, with the same wrap. -/
def Framebuffer.flip (fb : Framebuffer) (px py : Nat) : Framebuffer :=
  fb.set (py % 32)
    ((fb[py % 32]'(by omega)).set (px % 64) (!(Framebuffer.pixel fb px py)) (by omega)) (by omega)

/-- The display with every pixel 0. -/
def Framebuffer.clear : Framebuffer := Vector.replicate 32 (Vector.replicate 64 false)

/-- `fb <- f`. -/
def State.setFb (s : State) (f : Framebuffer) : State := { s with fb := f }

/-! ### Loops -/

/-- The control state of a loop. -/
def State.loop (s : State) : Loop → LoopState
  | .cpu => s.cpuLoop
  | .timer => s.timerLoop
  | .display => s.displayLoop

/-- Replace the control state of a loop. -/
def State.setLoop (s : State) (l : Loop) (ls : LoopState) : State :=
  match l with
  | .cpu => { s with cpuLoop := ls }
  | .timer => { s with timerLoop := ls }
  | .display => { s with displayLoop := ls }

/-! ### Outputs -/

/-- Emit one output (60_exceptions.md R335). -/
def State.emit (s : State) (o : Output) : State := { s with out := o :: s.out }

/-- `emit trace(p, w)`, unless `TRACE_ENABLE` is off (60_exceptions.md R337). -/
def State.emitTrace (s : State) (p w : Word) : State :=
  if s.params.traceEnable then s.emit (.trace p w) else s

/-! ### Random draws (41_register_alu.md R195) -/

/-- The byte the next `RandomByte()` returns: the first supplied one, else a free value (log 4). -/
def State.nextDraw (s : State) : Byte :=
  match s.draws with
  | b :: _ => b
  | [] => randomByte s.drawCount

/-- Use up that draw. -/
def State.dropDraw (s : State) : State :=
  match s.draws with
  | _ :: bs => { s with draws := bs }
  | [] => { s with drawCount := s.drawCount + 1 }

/-! ### Faults (60_exceptions.md R310 to R318) -/

/-- The code of a cause (60_exceptions.md R311). -/
def Cause.code : Cause → Byte
  | .fetchAddr => 1
  | .dataAddr => 2
  | .stackOverflow => 3
  | .stackUnderflow => 4
  | .keyIndex => 5
  | .unimplemented => 6
  | .regIndex => 7

/-- Fault entry (60_exceptions.md R313), from the state before the step: the step's writes are discarded, the record
is written, the CPU loop stops and the report is emitted. No handler runs, so nothing returns from it (R315, R316):
the host resumes the CPU loop with `Step` or `Start`. -/
def takeFault (r : Raise) (s : State) : State :=
  { s with
    fault := { cause := r.cause.code, pc := s.pc, info := r.info }
    cpuLoop := { s.cpuLoop with run := .stopped }
    out := .faultReport r.cause.code s.pc r.info :: s.out }

/-- The end of a CPU unit of work on instruction `i` from state `s` (30_encoding.md R112, R113): the effect's writes
all take effect and the trace is emitted, or the raise discards them all and the fault is taken. The trace's word is
`encode i`, the word fetched (log 12). -/
def retire (i : Instr) (s : State) : Except Raise State → Host.Outcome State Fault Refusal
  | .ok t => .next (t.emitTrace s.pc (encode i))
  | .error r => .next (takeFault r s)

/-- An unimplemented word under `UNIMPL_POLICY` (60_exceptions.md R313, R319). -/
def unimplementedWord (w : Word) (s : State) : State :=
  match s.params.unimplPolicy with
  | .faults => takeFault { cause := .unimplemented, info := w } s
  | .continues =>
    ((({ s with unimpl := { seen := true, pc := s.pc, word := w } }).advance).emit
      (.unimplReport s.pc w)).emitTrace s.pc w

/-! ### Fetch (30_encoding.md R101) -/

/-- `Fetch16(pc)`: the big-endian word at pc, or FETCH_ADDR when its second byte is outside memory. -/
def fetch16 (s : State) : Except Raise Word :=
  if 0xFFF < s.pc.toNat + 1 then .error { cause := .fetchAddr, info := s.pc }
  else .ok (wordOfBytes (s.byteAt s.pc.toNat) (s.byteAt (s.pc.toNat + 1)))

/-- The state with `w` stored where the next fetch reads, if there is room for it (log 3). -/
def placeWordAtPc (s : State) (w : Word) : State :=
  if 0xFFF < s.pc.toNat + 1 then s else s.storeBytes s.pc.toNat [hiByte w, loByte w]

end Sys2Proof.Machine
end

