-- ==== Sys2Proof/Machine/Flags.lean ====
section
/-! DEFINITION. The values VF receives (10_state.md R32, 41_register_alu.md R180, R181): each exactly 0 or 1. -/

namespace Sys2Proof.Machine

/-- A flag as VF holds it. -/
def flagByte (c : Bool) : Byte := if c then 1 else 0

/-- The carry of `ADD Vx, Vy` (41_register_alu.md R189). -/
def carryOf (a b : Byte) : Bool := decide (255 < a.toNat + b.toNat)

/-- NOT borrow of `a - b`, set when a ≥ b (41_register_alu.md R190, R192). -/
def noBorrow (a b : Byte) : Bool := decide (b.toNat ≤ a.toNat)

/-- The bit `SHR` shifts out (41_register_alu.md R191). -/
def shiftedOutLow (a : Byte) : Bool := a.getLsbD 0

/-- The bit `SHL` shifts out (41_register_alu.md R193). -/
def shiftedOutHigh (a : Byte) : Bool := a.getLsbD 7

/-- The result to Vx first, then the flag to VF, which wins when x = F (41_register_alu.md R181). -/
def State.setResultFlag (s : State) (x : Nibble) (r : Byte) (c : Bool) : State :=
  (s.setReg x r).setReg vf (flagByte c)

end Sys2Proof.Machine
end

