-- ==== Sys2Proof/Machine/Operands.lean ====
section
/-! DEFINITION. The operand forms: immediates (30_encoding.md R104), I-relative data ranges (44_index_memory.md
R286), key indexes (43_keyboard_timers.md R251), the font glyph address, decimal digits, and register blocks. -/

namespace Sys2Proof.Machine

/-- `zext_16(nnn)` (30_encoding.md R104). -/
def addrWord (nnn : Addr) : Word := nnn.setWidth 16

/-- The target of `JP V0, addr`: nnn + V0, at most 0x10FE, so 16 bits hold it exactly (40_control_flow.md R148). -/
def jumpV0Target (nnn : Addr) (s : State) : Word := addrWord nnn + (s.reg 0).setWidth 16

/-- The range check of a data transfer of `len` bytes at I, made before any byte moves: `k` is the effect when every
address is at most 0xFFF, else DATA_ADDR with the lowest failing address (20_memory.md R72, R82; 44_index_memory.md
R286). -/
def checkData (len : Nat) (s : State) (k : State) : Except Raise State :=
  if 0 < len ∧ 0xFFF < s.iReg.toNat + (len - 1) then
    .error { cause := .dataAddr, info := BitVec.ofNat 16 (max s.iReg.toNat 0x1000) }
  else .ok k

/-- The key whose number is in Vx: `c` of whether it is held, else KEY_INDEX when Vx > 15 (43_keyboard_timers.md
R251, R252). -/
def checkKey (x : Nibble) (s : State) (c : Bool → State) : Except Raise State :=
  if 15 < (s.reg x).toNat then .error { cause := .keyIndex, info := (s.reg x).setWidth 16 }
  else .ok (c (s.keys.getLsbD (s.reg x).toNat))

/-- `min{k | keys[k] = 1}`, if any key is held (43_keyboard_timers.md R254). -/
def lowestKey (keys : Word) : Option Nat := (List.range 16).find? (fun k => keys.getLsbD k)

/-- The address of the font glyph for the low nibble of a byte (44_index_memory.md R282, 20_memory.md R75). -/
def glyphAddr (b : Byte) : Word := ((b &&& 0x0F).setWidth 16) * 5

/-- Hundreds, tens and units of a byte (44_index_memory.md R283). -/
def bcdDigits (b : Byte) : List Byte :=
  [BitVec.ofNat 8 (b.toNat / 100), BitVec.ofNat 8 (b.toNat / 10 % 10), BitVec.ofNat 8 (b.toNat % 10)]

/-- V0 to Vx, in order (44_index_memory.md R284). -/
def regBlock (x : Nibble) (s : State) : List Byte :=
  (List.range (x.toNat + 1)).map (fun k => s.reg (BitVec.ofNat 4 k))

/-- `for i in 0 .. x: V[i] <- mem[I + i]` (44_index_memory.md R285); `s` is the state read from. -/
def loadBlock (x : Nibble) (s : State) : State :=
  (List.range (x.toNat + 1)).foldl
    (fun t k => t.setReg (BitVec.ofNat 4 k) (s.byteAt (s.iReg.toNat + k))) s

end Sys2Proof.Machine
end

