-- ==== Sys2Proof/Machine/Alu.lean ====
section
/-! DEFINITION. Register loads and arithmetic (41_register_alu.md R180 to R195). -/

namespace Sys2Proof.Machine

open Sys2Proof.Config

/-- `LD Vx, byte` (41_register_alu.md R183). -/
def execLdByte (x : Nibble) (kk : Byte) (s : State) : Host.Outcome State Fault Refusal :=
  retire (.ldByte x kk) s (.ok (s.setReg x kk).advance)

/-- `ADD Vx, byte` (41_register_alu.md R184): no carry. -/
def execAddByte (x : Nibble) (kk : Byte) (s : State) : Host.Outcome State Fault Refusal :=
  retire (.addByte x kk) s (.ok (s.setReg x (s.reg x + kk)).advance)

/-- `LD Vx, Vy` (41_register_alu.md R185). -/
def execLdReg (x y : Nibble) (s : State) : Host.Outcome State Fault Refusal :=
  retire (.ldReg x y) s (.ok (s.setReg x (s.reg y)).advance)

/-- `OR Vx, Vy` (41_register_alu.md R186): VF is no flag here. -/
def execOr (x y : Nibble) (s : State) : Host.Outcome State Fault Refusal :=
  retire (.orReg x y) s (.ok (s.setReg x (s.reg x ||| s.reg y)).advance)

/-- `AND Vx, Vy` (41_register_alu.md R187). -/
def execAnd (x y : Nibble) (s : State) : Host.Outcome State Fault Refusal :=
  retire (.andReg x y) s (.ok (s.setReg x (s.reg x &&& s.reg y)).advance)

/-- `XOR Vx, Vy` (41_register_alu.md R188). -/
def execXor (x y : Nibble) (s : State) : Host.Outcome State Fault Refusal :=
  retire (.xorReg x y) s (.ok (s.setReg x (s.reg x ^^^ s.reg y)).advance)

/-- `ADD Vx, Vy` (41_register_alu.md R189). -/
def execAddReg (x y : Nibble) (s : State) : Host.Outcome State Fault Refusal :=
  retire (.addReg x y) s
    (.ok (s.setResultFlag x (s.reg x + s.reg y) (carryOf (s.reg x) (s.reg y))).advance)

/-- What `SUB` leaves in Vx (41_register_alu.md R182): the wrapped difference, or the old value on a borrow under
`WriteIfNoBorrow`. -/
def subResult (p : SubWritePolicy) (a b : Byte) : Byte :=
  match p with
  | .writeAlways => a - b
  | .writeIfNoBorrow => if noBorrow a b then a - b else a

/-- `SUB Vx, Vy` (41_register_alu.md R190). -/
def execSub (x y : Nibble) (s : State) : Host.Outcome State Fault Refusal :=
  retire (.subReg x y) s
    (.ok (s.setResultFlag x (subResult s.params.subWrite (s.reg x) (s.reg y))
      (noBorrow (s.reg x) (s.reg y))).advance)

/-- `SHR Vx {, Vy}` (41_register_alu.md R191): shifts Vx, ignores Vy. -/
def execShr (x y : Nibble) (s : State) : Host.Outcome State Fault Refusal :=
  retire (.shr x y) s (.ok (s.setResultFlag x (s.reg x >>> 1) (shiftedOutLow (s.reg x))).advance)

/-- `SUBN Vx, Vy` (41_register_alu.md R192): writes Vx under either policy. -/
def execSubn (x y : Nibble) (s : State) : Host.Outcome State Fault Refusal :=
  retire (.subnReg x y) s
    (.ok (s.setResultFlag x (s.reg y - s.reg x) (noBorrow (s.reg y) (s.reg x))).advance)

/-- `SHL Vx {, Vy}` (41_register_alu.md R193): shifts Vx, ignores Vy. -/
def execShl (x y : Nibble) (s : State) : Host.Outcome State Fault Refusal :=
  retire (.shl x y) s (.ok (s.setResultFlag x (s.reg x <<< 1) (shiftedOutHigh (s.reg x))).advance)

/-- `RND Vx, byte` (41_register_alu.md R194, R195): the draw is a free input. -/
def execRnd (x : Nibble) (kk : Byte) (s : State) : Host.Outcome State Fault Refusal :=
  retire (.rnd x kk) s (.ok (s.dropDraw.setReg x (s.nextDraw &&& kk)).advance)

end Sys2Proof.Machine
end

