-- ==== Sys2Proof/Machine/Display.lean ====
section
/-! DEFINITION. The sprite-blit engine, CLS and DRW (42_display.md R220 to R226). -/

namespace Sys2Proof.Machine

/-- A blit under way: the screen, and whether a pixel has been cleared (42_display.md R223). -/
structure Blit where
  fb : Framebuffer
  col : Bool
  deriving DecidableEq, Repr

/-- A sprite pixel that is 1 lands on (px, py): the screen pixel flips, and clearing it is a collision
(42_display.md R222). -/
def blitPixel (px py : Nat) (b : Blit) : Blit :=
  { fb := b.fb.flip px py, col := b.col || b.fb.pixel px py }

/-- One row of a sprite at column `ox` of screen row `py`, most significant bit leftmost (42_display.md R221). -/
def blitRow (ox py : Nat) (row : Byte) (b : Blit) : Blit :=
  (List.range 8).foldl
    (fun b c => if row.getLsbD (7 - c) then blitPixel ((ox + c) % 64) py b else b) b

/-- The rows of a sprite, top row first, at (ox, oy), each wrapping on its own (42_display.md R220, R225). -/
def blitRows (ox oy : Nat) (rows : List Byte) (b : Blit) : Blit :=
  (List.range rows.length).foldl
    (fun b r => blitRow ox ((oy + r) % 32) (rows.getD r 0) b) b

/-- The n sprite bytes at I (42_display.md R221). -/
def spriteRows (n : Nat) (s : State) : List Byte :=
  (List.range n).map (fun r => s.byteAt (s.iReg.toNat + r))

/-- The blit of `DRW Vx, Vy, n` (42_display.md R225). -/
def drawSprite (x y n : Nibble) (s : State) : Blit :=
  blitRows (s.reg x).toNat (s.reg y).toNat (spriteRows n.toNat s) { fb := s.fb, col := false }

/-- `CLS` (42_display.md R224). -/
def execCls (s : State) : Host.Outcome State Fault Refusal :=
  retire .cls s (.ok (s.setFb Framebuffer.clear).advance)

/-- `DRW Vx, Vy, nibble` (42_display.md R225): the sprite's addresses are checked before any pixel changes, the
coordinates are read before VF is written, and VF is always written. -/
def execDrw (x y n : Nibble) (s : State) : Host.Outcome State Fault Refusal :=
  retire (.drw x y n) s
    (checkData n.toNat s
      (((s.setFb (drawSprite x y n s).fb).setReg vf (flagByte (drawSprite x y n s).col)).advance))

end Sys2Proof.Machine
end

