-- ==== Sys2Proof/Machine/Flow.lean ====
section
/-! DEFINITION. Control transfer (40_control_flow.md R140 to R149). -/

namespace Sys2Proof.Machine

/-- `SYS addr` (40_control_flow.md R140): a no-op. -/
def execSys (nnn : Addr) (s : State) : Host.Outcome State Fault Refusal :=
  retire (.sys nnn) s (.ok s.advance)

/-- `RET` (40_control_flow.md R141). The entry is not cleared; entry 0 is never read. -/
def execRet (s : State) : Host.Outcome State Fault Refusal :=
  if s.sp = 0 then retire .ret s (.error { cause := .stackUnderflow, info := 0 })
  else
    match s.stackEntry s.sp.toNat with
    | some a => retire .ret s (.ok ((s.setPc a).setSp (s.sp - 1)))
    | none => .fault .spOutOfRange

/-- `JP addr` (40_control_flow.md R142). -/
def execJp (nnn : Addr) (s : State) : Host.Outcome State Fault Refusal :=
  retire (.jp nnn) s (.ok (s.setPc (addrWord nnn)))

/-- `CALL addr` (40_control_flow.md R143): pushes the address of the next instruction. -/
def execCall (nnn : Addr) (s : State) : Host.Outcome State Fault Refusal :=
  if s.sp = 15 then retire (.call nnn) s (.error { cause := .stackOverflow, info := 15 })
  else if 15 < s.sp.toNat then .fault .spOutOfRange
  else retire (.call nnn) s (.ok ((s.pushAt (s.sp + 1) (s.pc + 2)).setPc (addrWord nnn)))

/-- `SE Vx, byte` (40_control_flow.md R144). -/
def execSeByte (x : Nibble) (kk : Byte) (s : State) : Host.Outcome State Fault Refusal :=
  retire (.seByte x kk) s (.ok (s.skipIf (s.reg x == kk)))

/-- `SNE Vx, byte` (40_control_flow.md R145). -/
def execSneByte (x : Nibble) (kk : Byte) (s : State) : Host.Outcome State Fault Refusal :=
  retire (.sneByte x kk) s (.ok (s.skipIf (s.reg x != kk)))

/-- `SE Vx, Vy` (40_control_flow.md R146). -/
def execSeReg (x y : Nibble) (s : State) : Host.Outcome State Fault Refusal :=
  retire (.seReg x y) s (.ok (s.skipIf (s.reg x == s.reg y)))

/-- `SNE Vx, Vy` (40_control_flow.md R147). -/
def execSneReg (x y : Nibble) (s : State) : Host.Outcome State Fault Refusal :=
  retire (.sneReg x y) s (.ok (s.skipIf (s.reg x != s.reg y)))

/-- `JP V0, addr` (40_control_flow.md R148): the target is kept and checked at the next fetch. -/
def execJpV0 (nnn : Addr) (s : State) : Host.Outcome State Fault Refusal :=
  retire (.jpV0 nnn) s (.ok (s.setPc (jumpV0Target nnn s)))

end Sys2Proof.Machine
end

