-- ==== Sys2Proof/Machine/KeysTimers.lean ====
section
/-! DEFINITION. Keyboard and timer instructions (43_keyboard_timers.md R250 to R258). -/

namespace Sys2Proof.Machine

open Sys2Proof.Config

/-- A key instruction in its two modes: `k` under `Implemented`, a plain advance under `Stubbed`
(43_keyboard_timers.md R250, R257). -/
def keyMode (s : State) (k : Except Raise State) : Except Raise State :=
  match s.params.keyMode with
  | .implemented => k
  | .stubbed => .ok s.advance

/-- `SKP Vx` (43_keyboard_timers.md R251, R257). -/
def execSkp (x : Nibble) (s : State) : Host.Outcome State Fault Refusal :=
  retire (.skp x) s (keyMode s (checkKey x s (fun held => s.skipIf held)))

/-- `SKNP Vx` (43_keyboard_timers.md R252, R257). -/
def execSknp (x : Nibble) (s : State) : Host.Outcome State Fault Refusal :=
  retire (.sknp x) s (keyMode s (checkKey x s (fun held => s.skipIf (!held))))

/-- `LD Vx, DT` (43_keyboard_timers.md R253). -/
def execLdVxDT (x : Nibble) (s : State) : Host.Outcome State Fault Refusal :=
  retire (.ldVxDT x) s (.ok (s.setReg x s.dt).advance)

/-- The effect of `LD Vx, K` (43_keyboard_timers.md R254): with no key held pc stays, so the instruction executes
again. -/
def waitKey (x : Nibble) (s : State) : State :=
  match lowestKey s.keys with
  | none => s.setPc s.pc
  | some k => (s.setReg x (BitVec.ofNat 8 k)).advance

/-- `LD Vx, K` (43_keyboard_timers.md R254, R257). -/
def execLdVxK (x : Nibble) (s : State) : Host.Outcome State Fault Refusal :=
  retire (.ldVxK x) s (keyMode s (.ok (waitKey x s)))

/-- `LD DT, Vx` (43_keyboard_timers.md R255). -/
def execLdDTVx (x : Nibble) (s : State) : Host.Outcome State Fault Refusal :=
  retire (.ldDTVx x) s (.ok (s.setDt (s.reg x)).advance)

/-- `LD ST, Vx` (43_keyboard_timers.md R256). -/
def execLdSTVx (x : Nibble) (s : State) : Host.Outcome State Fault Refusal :=
  retire (.ldSTVx x) s (.ok (s.setSt (s.reg x)).advance)

end Sys2Proof.Machine
end

