-- ==== Sys2Proof/Machine/Transfer.lean ====
section
/-! DEFINITION. The address register and the memory transfers (44_index_memory.md R280 to R287). None of the
transfers changes I. -/

namespace Sys2Proof.Machine

/-- `LD I, addr` (44_index_memory.md R280). -/
def execLdI (nnn : Addr) (s : State) : Host.Outcome State Fault Refusal :=
  retire (.ldI nnn) s (.ok (s.setI (addrWord nnn)).advance)

/-- `ADD I, Vx` (44_index_memory.md R281): 16-bit wraparound, no flag. -/
def execAddI (x : Nibble) (s : State) : Host.Outcome State Fault Refusal :=
  retire (.addI x) s (.ok (s.setI (s.iReg + (s.reg x).setWidth 16)).advance)

/-- `LD F, Vx` (44_index_memory.md R282). -/
def execLdF (x : Nibble) (s : State) : Host.Outcome State Fault Refusal :=
  retire (.ldF x) s (.ok (s.setI (glyphAddr (s.reg x))).advance)

/-- `LD B, Vx` (44_index_memory.md R283). -/
def execLdB (x : Nibble) (s : State) : Host.Outcome State Fault Refusal :=
  retire (.ldB x) s (checkData 3 s (s.storeBytes s.iReg.toNat (bcdDigits (s.reg x))).advance)

/-- `LD [I], Vx` (44_index_memory.md R284). -/
def execStoreRegs (x : Nibble) (s : State) : Host.Outcome State Fault Refusal :=
  retire (.storeRegs x) s
    (checkData (x.toNat + 1) s (s.storeBytes s.iReg.toNat (regBlock x s)).advance)

/-- `LD Vx, [I]` (44_index_memory.md R285). -/
def execLoadRegs (x : Nibble) (s : State) : Host.Outcome State Fault Refusal :=
  retire (.loadRegs x) s (checkData (x.toNat + 1) s (loadBlock x s).advance)

end Sys2Proof.Machine
end

