-- ==== Sys2Proof/Machine/Units.lean ====
section
/-! DEFINITION. The three units of work (60_exceptions.md R329 to R331) and the outputs that are functions of the
state (R334, R338). -/

namespace Sys2Proof.Machine

/-- unit(CPU): one instruction step (30_encoding.md R112, 60_exceptions.md R329). A fetch fault comes before decode,
decode before the instruction's own check (R318). -/
def cpuUnit (s : State) : Host.Outcome State Fault Refusal :=
  match fetch16 s with
  | .error r => .next (takeFault r s)
  | .ok w =>
    match decode w with
    | .op i => exec i s
    | .unimplemented u => .next (unimplementedWord u s)

/-- A timer one decrement on: never below 0 (60_exceptions.md R330). -/
def countDown (b : Byte) : Byte := if b = 0 then 0 else b - 1

/-- unit(Timer): both timers at once (60_exceptions.md R330). -/
def timerUnit (s : State) : State := (s.setDt (countDown s.dt)).setSt (countDown s.st)

/-- unit(Display): one frame export, no state change (60_exceptions.md R331). -/
def displayUnit (s : State) : State := s.emit (.frame s.fb)

/-- unit(L) (60_exceptions.md R329 to R331). -/
def unitOf (l : Loop) (s : State) : Host.Outcome State Fault Refusal :=
  match l with
  | .cpu => cpuUnit s
  | .timer => .next (timerUnit s)
  | .display => .next (displayUnit s)

/-- The level output `sound_on` (60_exceptions.md R334). -/
def State.soundOn (s : State) : Bool := s.st != 0

/-- The snapshot `read_status()` returns (60_exceptions.md R338). -/
def State.statusOf (s : State) : Status where
  cpuRun := s.cpuLoop.run
  timerRun := s.timerLoop.run
  displayRun := s.displayLoop.run
  fault := s.fault
  unimpl := s.unimpl

end Sys2Proof.Machine
end

