-- ==== Sys2Proof/Machine/Mux.lean ====
section
/-! DEFINITION. The control-message multiplexer (60_exceptions.md R324 to R328, R332): messages, passes, triggers
and the queues' capacity. -/

namespace Sys2Proof.Machine

/-- Set a loop's run flag. -/
def State.setRun (s : State) (l : Loop) (r : Config.RunFlag) : State :=
  s.setLoop l { s.loop l with run := r }

/-- Apply a control message to loop l (60_exceptions.md R325 to R327). -/
def applyMsg (l : Loop) (m : Msg) (s : State) : Host.Outcome State Fault Refusal :=
  match m with
  | .start => .next (s.setRun l .running)
  | .stop => .next (s.setRun l .stopped)
  | .step => unitOf l s

/-- Transition B of a pass: the tick is consumed, and a running loop does one unit (60_exceptions.md R324). -/
def tickTransition (l : Loop) (s : State) : Host.Outcome State Fault Refusal :=
  match (s.loop l).run with
  | .running => unitOf l (s.setLoop l { s.loop l with due := false, midPass := false })
  | .stopped => .next (s.setLoop l { s.loop l with due := false, midPass := false })

/-- The next transition of a pass of loop l (60_exceptions.md R324): B if a pass is under way; else a pass begins,
with A if a message waits (noting whether a tick is due, so that B follows), with B if only a tick is due; a loop
with neither waits. -/
def passTransition (l : Loop) (s : State) : Host.Outcome State Fault Refusal :=
  if (s.loop l).midPass then tickTransition l s
  else
    match (s.loop l).queue with
    | m :: q => applyMsg l m (s.setLoop l { s.loop l with queue := q, midPass := (s.loop l).due })
    | [] => if (s.loop l).due then tickTransition l s else .next s

/-- `trigger(L)`: triggers do not accumulate (60_exceptions.md R328). -/
def triggerLoop (l : Loop) (s : State) : State := s.setLoop l { s.loop l with due := true }

/-- Whether the queue of loop l has no free slot under `CTRL_QUEUE_DEPTH` (60_exceptions.md R332). A depth is at least
1 (00_scope.md R7), so 0 counts as 1 (log 15). -/
def queueFull (l : Loop) (s : State) : Bool :=
  match s.params.queueDepth with
  | none => false
  | some d => decide (max d 1 ≤ (s.loop l).queue.length)

/-- Append a message to the tail of the queue of loop l (60_exceptions.md R332). -/
def enqueue (l : Loop) (m : Msg) (s : State) : State :=
  s.setLoop l { s.loop l with queue := (s.loop l).queue ++ [m] }

end Sys2Proof.Machine
end

