-- ==== Sys2Proof/Machine/HostOps.lean ====
section
/-! DEFINITION. The host's transactions (60_exceptions.md R335) and the choice of the next transition: what one step
of the model does. -/

namespace Sys2Proof.Machine

/-- `reset()` (70_reset_and_hazards.md R390, R391): every piece of the spec's state to its reset value. What belongs
to the environment stays: the parameters, its later choices, its supplied bytes, and what it has received (log 11). -/
def resetMachine (s : State) : State :=
  { State.powerOn s.params with
    agenda := s.agenda
    rounds := s.rounds
    draws := s.draws
    drawCount := s.drawCount
    out := s.out }

/-- `load(bytes)` (20_memory.md R84): all of the program or nothing. -/
def loadProgram (bytes : List Byte) (s : State) : State :=
  if bytes.length ≤ Config.progMax then (s.storeBytes Config.progBase bytes).emit (.loaded .ok)
  else s.emit (.loaded .tooLong)

/-- `keys[k] <- c` (60_exceptions.md R336); a k outside 0 to 15 is refused by the interface and changes nothing. -/
def writeKey (k : Nat) (c : Bool) (s : State) : State :=
  if 15 < k then s.emit (.keyRefused k)
  else s.setKeys (if c then s.keys ||| (1#16 <<< k) else s.keys &&& ~~~(1#16 <<< k))

/-- `key_query(k)` (60_exceptions.md R336). -/
def queryKey (k : Nat) (s : State) : State :=
  if 15 < k then s.emit (.keyRefused k) else s.emit (.keyState k (s.keys.getLsbD k))

/-- A host transaction (60_exceptions.md R335). `send` is performed here only when the queue has room. -/
def hostOp (op : HostOp) (s : State) : State :=
  match op with
  | .reset => resetMachine s
  | .load bytes => loadProgram bytes s
  | .send l m => enqueue l m s
  | .trigger l => triggerLoop l s
  | .keySet k => writeKey k true s
  | .keyClear k => writeKey k false s
  | .keyQuery k => queryKey k s
  | .readFrame => s.emit (.frameRead s.fb)
  | .readStatus => s.emit (.status s.statusOf)
  | .supplyRandom b => { s with draws := s.draws ++ [b] }

/-- The loop a host transaction must wait for: `send` to a full queue does not complete until a pass of that loop
frees a slot (60_exceptions.md R332). -/
def blockedOn (a : Action) (s : State) : Option Loop :=
  match a with
  | .host (.send l _) => if queueFull l s then some l else none
  | _ => none

/-- Perform a chosen transition. -/
def perform (a : Action) (s : State) : Host.Outcome State Fault Refusal :=
  match a with
  | .pass l => passTransition l s
  | .host op => .next (hostOp op s)

/-- The loops of which a list of choices has no pass. -/
def missingPasses (l : List Action) : List Action :=
  (allLoops.filter (fun k => decide (Action.pass k ∉ l))).map .pass

/-- A round of choices, first one and rest: the environment's list, then a pass of every loop it leaves out, so that each
loop is served in every round, which is the fairness of 60_exceptions.md R333 (log 17). -/
def fairRound : List Action → Action × List Action
  | [] => (.pass .cpu, [.pass .timer, .pass .display])
  | a :: l => (a, l ++ missingPasses (a :: l))

/-- The transition chosen, with the rest of the choices. A blocked `send` stays first while the loop it waits for makes
its next transition (log 7). -/
def chosenTransition (a : Action) (rest : List Action) (s : State) : Host.Outcome State Fault Refusal :=
  match blockedOn a s with
  | some l => passTransition l { s with agenda := a :: rest }
  | none => perform a { s with agenda := rest }

/-- One transition of the machine: the first one the environment chose. With nothing chosen the environment chooses a
round, a free value (20_memory.md R87; log 2). -/
def nextTransition (s : State) : Host.Outcome State Fault Refusal :=
  match s.agenda with
  | [] =>
    chosenTransition (fairRound (Config.freeRound s.rounds)).1 (fairRound (Config.freeRound s.rounds)).2
      { s with rounds := s.rounds + 1 }
  | a :: rest => chosenTransition a rest s

/-- Choices under which a Running CPU loop with no message does n units of work, one after another: its trigger, then its
pass (log 3). -/
def cpuSteps : Nat → List Action
  | 0 => []
  | n + 1 => .host (.trigger .cpu) :: .pass .cpu :: cpuSteps n

/-- The state in which the next transition is a unit of the CPU loop on word `w`: one pass of it chosen, the loop running
with a tick due, no message and no pass under way, and `w` at the pc (log 3). -/
def readyToRun (w : Word) (s : State) : State :=
  placeWordAtPc
    { s with
      agenda := [.pass .cpu]
      cpuLoop := { run := .running, queue := [], due := true, midPass := false } } w

end Sys2Proof.Machine
end

