-- ==== Sys2Proof/Machine/Step.lean ====
section
/-! DEFINITION. The machine's step: one atomic transition of 20_memory.md R85. Which one is next is data in the state
(`agenda`), and a free value once those choices are used up, so that the interleaving of R87 stays open (log 2). -/

namespace Sys2Proof.Machine

/-- One transition (20_memory.md R85, R87). -/
def step (s : State) : Host.Outcome State Fault Refusal := nextTransition s

/-- The state in which the very next step runs the instruction with the table's word `w` (log 3). -/
def State.withFetchWord (s : State) (nbits w : Nat) : State := readyToRun (tableWord nbits w) s

end Sys2Proof.Machine
end

