-- ==== Sys2Proof/Safety.lean ====
section
/-! DEFINITION. The terms the statements use: which parts of the state agree, what fault entry leaves, what a
completed instruction emits, which registers an instruction may write, the sprite of a DRW, the invariant, and
quiescence. -/

namespace Sys2Proof.Machine

open Sys2Proof.Config

/-- The parts of the state a frame names. -/
inductive Part where
  | v | iReg | pc | sp | stack | dt | st | keys | fb | mem
  | cpuLoop | timerLoop | displayLoop | fault | unimpl
  | params | agenda | rounds | draws | drawCount | out
  deriving DecidableEq, Repr

/-- Two states agree on a part; on memory when every byte reads the same. -/
def Part.same : Part → State → State → Prop
  | .v, s, t => t.v = s.v
  | .iReg, s, t => t.iReg = s.iReg
  | .pc, s, t => t.pc = s.pc
  | .sp, s, t => t.sp = s.sp
  | .stack, s, t => t.stack = s.stack
  | .dt, s, t => t.dt = s.dt
  | .st, s, t => t.st = s.st
  | .keys, s, t => t.keys = s.keys
  | .fb, s, t => t.fb = s.fb
  | .mem, s, t => ∀ a, t.byteAt a = s.byteAt a
  | .cpuLoop, s, t => t.cpuLoop = s.cpuLoop
  | .timerLoop, s, t => t.timerLoop = s.timerLoop
  | .displayLoop, s, t => t.displayLoop = s.displayLoop
  | .fault, s, t => t.fault = s.fault
  | .unimpl, s, t => t.unimpl = s.unimpl
  | .params, s, t => t.params = s.params
  | .agenda, s, t => t.agenda = s.agenda
  | .rounds, s, t => t.rounds = s.rounds
  | .draws, s, t => t.draws = s.draws
  | .drawCount, s, t => t.drawCount = s.drawCount
  | .out, s, t => t.out = s.out

/-- `t` agrees with `s` on every part but those listed. -/
def AgreeExcept (ps : List Part) (s t : State) : Prop := ∀ p, p ∉ ps → p.same s t

/-- The outputs after a CPU step on `i` that completes: one trace record of the pc at fetch and the word, unless
`TRACE_ENABLE` is off (60_exceptions.md R337). -/
def tracedOut (s : State) (i : Instr) : List Output :=
  if s.params.traceEnable then .trace s.pc (encode i) :: s.out else s.out

/-- Fault entry, whole (60_exceptions.md R313): the record holds the code, the pc and the information, the CPU loop
is Stopped, the report is emitted, and everything else is as before the step. -/
def FaultEntry (code : Byte) (info : Word) (s t : State) : Prop :=
  t.fault = { cause := code, pc := s.pc, info := info } ∧
  t.cpuLoop = { s.cpuLoop with run := .stopped } ∧
  t.out = .faultReport code s.pc info :: s.out ∧
  AgreeExcept [.fault, .cpuLoop, .out] s t

/-- `exec` answers the fault entry of a cause. -/
def FaultsWith (i : Instr) (s : State) (code : Byte) (info : Word) : Prop :=
  ∃ t, exec i s = .next t ∧ FaultEntry code info s t

/-- `exec` completes, and only pc (and the trace) changes. -/
def OnlyPcMoves (i : Instr) (s : State) (p : Word) : Prop :=
  ∃ t, exec i s = .next t ∧ t.pc = p ∧ t.out = tracedOut s i ∧ AgreeExcept [.pc, .out] s t

/-- `exec` completes with V[x] = b, the default advance, and nothing else changed. -/
def WritesReg (i : Instr) (s : State) (x : Nibble) (b : Byte) : Prop :=
  ∃ t, exec i s = .next t ∧ t.reg x = b ∧ (∀ j, j ≠ x → t.reg j = s.reg j) ∧ t.pc = s.pc + 2 ∧
    t.out = tracedOut s i ∧ AgreeExcept [.v, .pc, .out] s t

/-- `exec` completes with VF = flag, V[x] = b unless x is F (the flag is last and wins), the default advance, and
nothing else changed. -/
def WritesRegAndFlag (i : Instr) (s : State) (x : Nibble) (b flag : Byte) : Prop :=
  ∃ t, exec i s = .next t ∧ t.reg 0xF = flag ∧ (x ≠ 0xF → t.reg x = b) ∧
    (∀ j, j ≠ x → j ≠ 0xF → t.reg j = s.reg j) ∧ t.pc = s.pc + 2 ∧
    t.out = tracedOut s i ∧ AgreeExcept [.v, .pc, .out] s t

/-- `exec` completes with I = a, the default advance, and nothing else changed. -/
def WritesI (i : Instr) (s : State) (a : Word) : Prop :=
  ∃ t, exec i s = .next t ∧ t.iReg = a ∧ t.pc = s.pc + 2 ∧ t.out = tracedOut s i ∧
    AgreeExcept [.iReg, .pc, .out] s t

/-- The registers an instruction may write (10_state.md R33). -/
def mayWriteReg : Instr → Nibble → Bool
  | .sys _, _ => false
  | .cls, _ => false
  | .ret, _ => false
  | .jp _, _ => false
  | .call _, _ => false
  | .seByte _ _, _ => false
  | .sneByte _ _, _ => false
  | .seReg _ _, _ => false
  | .ldByte x _, j => j == x
  | .addByte x _, j => j == x
  | .ldReg x _, j => j == x
  | .orReg x _, j => j == x
  | .andReg x _, j => j == x
  | .xorReg x _, j => j == x
  | .addReg x _, j => j == x || j == 0xF
  | .subReg x _, j => j == x || j == 0xF
  | .shr x _, j => j == x || j == 0xF
  | .subnReg x _, j => j == x || j == 0xF
  | .shl x _, j => j == x || j == 0xF
  | .sneReg _ _, _ => false
  | .ldI _, _ => false
  | .jpV0 _, _ => false
  | .rnd x _, j => j == x
  | .drw _ _ _, j => j == 0xF
  | .skp _, _ => false
  | .sknp _, _ => false
  | .ldVxDT x, j => j == x
  | .ldVxK x, j => j == x
  | .ldDTVx _, _ => false
  | .ldSTVx _, _ => false
  | .addI _, _ => false
  | .ldF _, _ => false
  | .ldB _, _ => false
  | .storeRegs _, _ => false
  | .loadRegs x, j => decide (j.toNat ≤ x.toNat)

/-- A sprite pixel that is 1 lands on screen pixel (px, py) when `DRW Vx, Vy, n` draws from `s` (42_display.md R220,
R221): bit 7 − c of row r lands on column (Vx + c) mod 64 of screen row (Vy + r) mod 32. -/
def SpriteCovers (s : State) (x y n : Nibble) (px py : Nat) : Prop :=
  ∃ r c : Nat, r < n.toNat ∧ c < 8 ∧ py = ((s.reg y).toNat + r) % 32 ∧ px = ((s.reg x).toNat + c) % 64 ∧
    (s.byteAt (s.iReg.toNat + r)).getLsbD (7 - c) = true

/-- FrameOf(fb): the coordinates of the pixels that are 1 (42_display.md R227). -/
def FrameOf (fb : Framebuffer) : Set (Nat × Nat) :=
  {p | p.1 < 64 ∧ p.2 < 32 ∧ fb.pixel p.1 p.2 = true}

/-- A loop's control state is one a run can reach: a pass stops between A and B only with a tick due, and the queue
is within `CTRL_QUEUE_DEPTH` (60_exceptions.md R324, R332). -/
abbrev LoopInv (depth : Option Nat) (ls : LoopState) : Prop :=
  (ls.midPass = true → ls.due = true) ∧ (∀ d ∈ depth, ls.queue.length ≤ max d 1)

/-- The invariant of the machine: memory in canonical form; sp legal (10_state.md R39); stack entry 0 never written
and every entry a return address (R40, 40_control_flow.md R143); pc no higher than an instruction can make it
(10_state.md R37); the fault record one a fault or reset leaves, REG_INDEX never (60_exceptions.md R311); the
unimplemented record clear until it is written (10_state.md R49); the loops' control state legal. -/
structure State.Inv (s : State) : Prop where
  mem_wf : Memory.wf s.params.font s.mem
  sp_legal : s.sp.toNat ≤ 15
  entry_zero : s.stack[0] = 0
  entries : ∀ j : Fin 16, s.stack[j].toNat ≤ 0x1000
  pc_range : s.pc.toNat ≤ 0x10FE
  cause_range : s.fault.cause.toNat ≤ 6
  no_fault : s.fault.cause = 0 → s.fault.pc = 0 ∧ s.fault.info = 0
  unseen : s.unimpl.seen = false → s.unimpl.pc = 0 ∧ s.unimpl.word = 0
  cpu_loop : LoopInv s.params.queueDepth s.cpuLoop
  timer_loop : LoopInv s.params.queueDepth s.timerLoop
  display_loop : LoopInv s.params.queueDepth s.displayLoop

/-- Some number of steps leads from `s` to `t`. -/
def State.Reaches (s t : State) : Prop := ∃ n, Sys2Proof.core.run n s = Host.Outcome.next t

/-- The CPU is quiescent: Stopped with no message queued (60_exceptions.md R344). -/
def State.CpuQuiescent (s : State) : Prop := s.cpuLoop.run = .stopped ∧ s.cpuLoop.queue = []

/-- Whether an output is not a trace record. -/
def Output.notTrace : Output → Bool
  | .trace _ _ => false
  | .faultReport _ _ _ => true
  | .unimplReport _ _ => true
  | .frame _ => true
  | .loaded _ => true
  | .keyState _ _ => true
  | .keyRefused _ => true
  | .frameRead _ => true
  | .status _ => true

/-- The outputs that are no trace records. -/
def State.untraced (s : State) : List Output := s.out.filter Output.notTrace

/-- The same state with the trace switched on or off (`TRACE_ENABLE`). -/
def State.withTrace (s : State) (b : Bool) : State := { s with params := { s.params with traceEnable := b } }

end Sys2Proof.Machine
end

