-- ==== Sys2Proof/Certificates/Slice0/Obligations.lean ====
section
/-! DEFINITION. The statements for the provers, in the order of OBLIGATIONS.json. The terms they share (AgreeExcept,
FaultEntry, FaultsWith, OnlyPcMoves, WritesReg, WritesRegAndFlag, WritesI, tracedOut, SpriteCovers, Inv) are in
Safety.lean. The model's own forms that many of them use: the outputs are the log State.out (log 5), the trace's word is
the instruction's encoding (log 12), and the environment's next choice is the head of State.agenda, a free round once that is empty (log 2). -/

open Sys2Proof Sys2Proof.Machine Sys2Proof.Config

/-! ### Encoding -/

/-- 30_encoding.md R105, R106: words written out from the layouts decode to their instructions. -/
def Obligations.WrittenWordsDecode : Prop :=
  decode 0x00E0 = .op .cls ∧ decode 0x00EE = .op .ret ∧ decode 0x00E1 = .op (.sys 0x0E1) ∧
  decode 0x1250 = .op (.jp 0x250) ∧ decode 0x3005 = .op (.seByte 0 5) ∧ decode 0x6005 = .op (.ldByte 0 5) ∧
  decode 0x812E = .op (.shl 1 2) ∧ decode 0xDBC5 = .op (.drw 0xB 0xC 5) ∧ decode 0xE3A1 = .op (.sknp 3) ∧
  decode 0xF21E = .op (.addI 2) ∧ decode 0xF265 = .op (.loadRegs 2) ∧ decode 0x5121 = .unimplemented 0x5121

/-- 30_encoding.md R106, with the field places of R102 and R103: the word of each of the 35 operations, as a number. -/
def Obligations.EncodingsFollowTheOpcodeMap : Prop :=
  ∀ (x y n : Nibble) (kk : Byte) (nnn : Addr),
    let X := x.toNat * 256
    let Y := y.toNat * 16
    (encode (.sys nnn)).toNat = nnn.toNat ∧ (encode .cls).toNat = 0x00E0 ∧ (encode .ret).toNat = 0x00EE ∧
    (encode (.jp nnn)).toNat = 0x1000 + nnn.toNat ∧ (encode (.call nnn)).toNat = 0x2000 + nnn.toNat ∧
    (encode (.seByte x kk)).toNat = 0x3000 + X + kk.toNat ∧
    (encode (.sneByte x kk)).toNat = 0x4000 + X + kk.toNat ∧ (encode (.seReg x y)).toNat = 0x5000 + X + Y ∧
    (encode (.ldByte x kk)).toNat = 0x6000 + X + kk.toNat ∧
    (encode (.addByte x kk)).toNat = 0x7000 + X + kk.toNat ∧
    (encode (.ldReg x y)).toNat = 0x8000 + X + Y ∧ (encode (.orReg x y)).toNat = 0x8001 + X + Y ∧
    (encode (.andReg x y)).toNat = 0x8002 + X + Y ∧ (encode (.xorReg x y)).toNat = 0x8003 + X + Y ∧
    (encode (.addReg x y)).toNat = 0x8004 + X + Y ∧ (encode (.subReg x y)).toNat = 0x8005 + X + Y ∧
    (encode (.shr x y)).toNat = 0x8006 + X + Y ∧ (encode (.subnReg x y)).toNat = 0x8007 + X + Y ∧
    (encode (.shl x y)).toNat = 0x800E + X + Y ∧ (encode (.sneReg x y)).toNat = 0x9000 + X + Y ∧
    (encode (.ldI nnn)).toNat = 0xA000 + nnn.toNat ∧ (encode (.jpV0 nnn)).toNat = 0xB000 + nnn.toNat ∧
    (encode (.rnd x kk)).toNat = 0xC000 + X + kk.toNat ∧
    (encode (.drw x y n)).toNat = 0xD000 + X + Y + n.toNat ∧
    (encode (.skp x)).toNat = 0xE09E + X ∧ (encode (.sknp x)).toNat = 0xE0A1 + X ∧
    (encode (.ldVxDT x)).toNat = 0xF007 + X ∧ (encode (.ldVxK x)).toNat = 0xF00A + X ∧
    (encode (.ldDTVx x)).toNat = 0xF015 + X ∧ (encode (.ldSTVx x)).toNat = 0xF018 + X ∧
    (encode (.addI x)).toNat = 0xF01E + X ∧ (encode (.ldF x)).toNat = 0xF029 + X ∧
    (encode (.ldB x)).toNat = 0xF033 + X ∧ (encode (.storeRegs x)).toNat = 0xF055 + X ∧
    (encode (.loadRegs x)).toNat = 0xF065 + X

/-- Decoding the word of any instruction gives the instruction back, every operand at every value; so do its bytes,
with the rest of the stream left over. -/
def Obligations.DecodeOfEncodeIsTheInstruction : Prop :=
  ∀ i : Instr, i.wf = true →
    decode (encode i) = .op i ∧ ∀ rest, decodeBytes (encodeBytes i ++ rest) = .op i rest

/-- Every word that decodes to an instruction is the word of that instruction, which is well formed: each word has
one meaning, and the trace's word is the word fetched. -/
def Obligations.DecodedWordIsItsEncoding : Prop :=
  ∀ (w : Word) (i : Instr), decode w = .op i → encode i = w ∧ i.wf = true

/-- 30_encoding.md R107: which words are Unimplemented, in the numbers of the fields, and that every other word is an
operation. -/
def Obligations.UnimplementedWordsAreTheListedOnes : Prop :=
  ∀ w : Word,
    let op := w.toNat / 4096
    let n := w.toNat % 16
    let kk := w.toNat % 256
    let listed := (op = 5 ∧ n ≠ 0) ∨ (op = 9 ∧ n ≠ 0) ∨
      (op = 8 ∧ n ∈ [8, 9, 0xA, 0xB, 0xC, 0xD, 0xF]) ∨
      (op = 0xE ∧ kk ∉ [0x9E, 0xA1]) ∨
      (op = 0xF ∧ kk ∉ [0x07, 0x0A, 0x15, 0x18, 0x1E, 0x29, 0x33, 0x55, 0x65])
    (listed → decode w = .unimplemented w) ∧ (¬ listed → ∃ i, decode w = .op i)

/-! ### The execution cycle -/

/-- 30_encoding.md R101: the word at pc, big-endian, or FETCH_ADDR with pc when pc + 1 is above 0xFFF. -/
def Obligations.FetchIsBigEndianOrFaults : Prop :=
  ∀ s : State,
    (s.pc.toNat + 1 ≤ 0xFFF → ∃ w, fetch16 s = .ok w ∧
      w.toNat = (s.byteAt s.pc.toNat).toNat * 256 + (s.byteAt (s.pc.toNat + 1)).toNat) ∧
    (0xFFF < s.pc.toNat + 1 → fetch16 s = .error { cause := .fetchAddr, info := s.pc } ∧
      ∃ t, cpuUnit s = .next t ∧ FaultEntry 1 s.pc s t)

/-- A step runs the decoded instruction: a CPU unit of work is exec of the instruction at pc, and a step is that unit
when the environment chose a pass of the CPU loop (in the model's form of the choice, log 2, and of a pass, log 6: midPass
says that transition B is still to come) in which a Step message is applied, or a Running loop's tick is served. With
nothing chosen, the step is the one after the environment's next free round is chosen (log 2). -/
def Obligations.StepRunsTheDecodedInstruction : Prop :=
  ∀ (s : State) (i : Instr), s.pc.toNat + 1 ≤ 0xFFF →
    decode (wordOfBytes (s.byteAt s.pc.toNat) (s.byteAt (s.pc.toNat + 1))) = .op i →
    cpuUnit s = exec i s ∧
    (∀ rest q, s.agenda = .pass .cpu :: rest → s.cpuLoop.midPass = false → s.cpuLoop.queue = .step :: q →
      step s = exec i { s with
        agenda := rest, cpuLoop := { s.cpuLoop with queue := q, midPass := s.cpuLoop.due } }) ∧
    (∀ rest, s.agenda = .pass .cpu :: rest → s.cpuLoop.run = .running →
      (s.cpuLoop.midPass = true ∨ s.cpuLoop.queue = [] ∧ s.cpuLoop.due = true) →
      step s = exec i { s with
        agenda := rest, cpuLoop := { s.cpuLoop with due := false, midPass := false } }) ∧
    (s.agenda = [] → step s = step { s with
      agenda := (fairRound (freeRound s.rounds)).1 :: (fairRound (freeRound s.rounds)).2, rounds := s.rounds + 1 })

/-- 60_exceptions.md R319: an unimplemented word under Continue; and R313 for it under Fault. -/
def Obligations.UnimplementedWordContinuesOrFaults : Prop :=
  ∀ (s : State) (w : Word), fetch16 s = .ok w → decode w = .unimplemented w →
    (s.params.unimplPolicy = .continues → ∃ t, cpuUnit s = .next t ∧
      t.unimpl = { seen := true, pc := s.pc, word := w } ∧ t.pc = s.pc + 2 ∧
      t.out = (if s.params.traceEnable then [.trace s.pc w] else []) ++ .unimplReport s.pc w :: s.out ∧
      AgreeExcept [.unimpl, .pc, .out] s t) ∧
    (s.params.unimplPolicy = .faults → ∃ t, cpuUnit s = .next t ∧ FaultEntry 6 w s t)

/-- 60_exceptions.md R312: every fault of a CPU unit of work is one of the listed ones, raised by a listed
instruction. -/
def Obligations.OnlyListedInstructionsFault : Prop :=
  ∀ (s t : State) (code : Byte) (info : Word), cpuUnit s = .next t → FaultEntry code info s t →
    (code = 1 ∧ 0xFFF ≤ s.pc.toNat) ∨
    (∃ w, fetch16 s = .ok w ∧ (
      (code = 6 ∧ decode w = .unimplemented w ∧ s.params.unimplPolicy = .faults) ∨
      (code = 3 ∧ ∃ nnn, decode w = .op (.call nnn)) ∨
      (code = 4 ∧ decode w = .op .ret) ∨
      (code = 2 ∧ ((∃ x y n, decode w = .op (.drw x y n)) ∨ (∃ x, decode w = .op (.ldB x)) ∨
        (∃ x, decode w = .op (.storeRegs x)) ∨ (∃ x, decode w = .op (.loadRegs x)))) ∨
      (code = 5 ∧ s.params.keyMode = .implemented ∧
        ((∃ x, decode w = .op (.skp x)) ∨ (∃ x, decode w = .op (.sknp x))))))

/-- 30_encoding.md R113, R337: a CPU unit of work either completes, with one trace record and no other output
(before it an unimplemented report under Continue), or is fault entry with everything else unchanged. -/
def Obligations.CpuUnitCompletesOrIsFaultEntry : Prop :=
  ∀ s t : State, cpuUnit s = .next t →
    (∃ code info, FaultEntry code info s t) ∨
    (∃ w, fetch16 s = .ok w ∧ t.cpuLoop = s.cpuLoop ∧ t.fault = s.fault ∧
      t.out = (if s.params.traceEnable then [.trace s.pc w] else []) ++
        ((if decode w = .unimplemented w then [.unimplReport s.pc w] else []) ++ s.out))

/-- 60_exceptions.md R316, R317: a step commanded after a fault, with nothing changed, faults again with the same
record. -/
def Obligations.FaultRepeatsUntilTheHostChangesSomething : Prop :=
  ∀ (s t : State) (code : Byte) (info : Word), cpuUnit s = .next t → FaultEntry code info s t →
    ∃ u, cpuUnit t = .next u ∧ FaultEntry code info t u ∧ u.fault = t.fault

/-! ### Control transfer -/

/-- 40_control_flow.md R140; for the two terms no word decodes to, the model's own (log 16). -/
def Obligations.SysOnlyAdvances : Prop :=
  ∀ (nnn : Addr) (s : State), OnlyPcMoves (.sys nnn) s (s.pc + 2)

/-- 40_control_flow.md R142, R148: the target is nnn, or nnn + V0 without wraparound, kept even out of range. -/
def Obligations.JumpsSetPcExactly : Prop :=
  ∀ (nnn : Addr) (s : State),
    OnlyPcMoves (.jp nnn) s (BitVec.ofNat 16 nnn.toNat) ∧
    OnlyPcMoves (.jpV0 nnn) s (BitVec.ofNat 16 (nnn.toNat + (s.reg 0).toNat)) ∧
    nnn.toNat + (s.reg 0).toNat ≤ 0x10FE

/-- 40_control_flow.md R144 to R147: a skip moves pc by 4 when its comparison holds, by 2 when not. -/
def Obligations.SkipsFollowTheirComparison : Prop :=
  ∀ (x y : Nibble) (kk : Byte) (s : State),
    OnlyPcMoves (.seByte x kk) s (if s.reg x = kk then s.pc + 4 else s.pc + 2) ∧
    OnlyPcMoves (.sneByte x kk) s (if s.reg x ≠ kk then s.pc + 4 else s.pc + 2) ∧
    OnlyPcMoves (.seReg x y) s (if s.reg x = s.reg y then s.pc + 4 else s.pc + 2) ∧
    OnlyPcMoves (.sneReg x y) s (if s.reg x ≠ s.reg y then s.pc + 4 else s.pc + 2)

/-- 40_control_flow.md R143, sp legal (10_state.md R39): CALL pushes the address of the next instruction on entry
sp + 1 and jumps; with sp = 15 it raises STACK_OVERFLOW with 15. -/
def Obligations.CallPushesTheReturnAddress : Prop :=
  ∀ (nnn : Addr) (s : State),
    (s.sp.toNat < 15 → ∃ t, exec (.call nnn) s = .next t ∧ t.sp.toNat = s.sp.toNat + 1 ∧
      t.stackEntry (s.sp.toNat + 1) = some (s.pc + 2) ∧
      (∀ j, j ≠ s.sp.toNat + 1 → t.stackEntry j = s.stackEntry j) ∧
      t.pc = BitVec.ofNat 16 nnn.toNat ∧ t.out = tracedOut s (.call nnn) ∧
      AgreeExcept [.sp, .stack, .pc, .out] s t) ∧
    (s.sp = 15 → FaultsWith (.call nnn) s 3 15)

/-- 40_control_flow.md R141, sp legal: RET takes pc from entry sp, which it leaves, and decrements sp; with sp = 0
it raises STACK_UNDERFLOW with 0. -/
def Obligations.RetPopsTheReturnAddress : Prop :=
  ∀ s : State,
    (∀ h : s.sp.toNat < 16, 0 < s.sp.toNat → ∃ t, exec .ret s = .next t ∧ t.pc = s.stack[s.sp.toNat] ∧
      t.sp.toNat = s.sp.toNat - 1 ∧ t.out = tracedOut s .ret ∧ AgreeExcept [.sp, .pc, .out] s t) ∧
    (s.sp = 0 → FaultsWith .ret s 4 0)

/-- The model's own choice (log 8): CALL and RET stop by name when sp is outside 0 to 15, which the spec excludes. -/
def Obligations.IllegalStackPointerStops : Prop :=
  ∀ (nnn : Addr) (s : State), 15 < s.sp.toNat →
    exec (.call nnn) s = .fault .spOutOfRange ∧ exec .ret s = .fault .spOutOfRange

/-- 90_conflicts.md C5: a RET after a CALL resumes after the CALL, with sp as it was. -/
def Obligations.RetUndoesCall : Prop :=
  ∀ (nnn : Addr) (s t : State), s.sp.toNat < 15 → exec (.call nnn) s = .next t →
    ∃ u, exec .ret t = .next u ∧ u.pc = s.pc + 2 ∧ u.sp = s.sp ∧ AgreeExcept [.stack, .pc, .out] s u

/-! ### Register loads and arithmetic -/

/-- 41_register_alu.md R183 to R185. -/
def Obligations.LoadsAndByteAddWriteOnlyVx : Prop :=
  ∀ (x y : Nibble) (kk : Byte) (s : State),
    WritesReg (.ldByte x kk) s x kk ∧
    WritesReg (.addByte x kk) s x (BitVec.ofNat 8 (((s.reg x).toNat + kk.toNat) % 256)) ∧
    WritesReg (.ldReg x y) s x (s.reg y)

/-- 41_register_alu.md R186 to R188: no flag. -/
def Obligations.LogicOpsWriteOnlyVx : Prop :=
  ∀ (x y : Nibble) (s : State),
    WritesReg (.orReg x y) s x (s.reg x ||| s.reg y) ∧
    WritesReg (.andReg x y) s x (s.reg x &&& s.reg y) ∧
    WritesReg (.xorReg x y) s x (s.reg x ^^^ s.reg y)

/-- 41_register_alu.md R189, R181. -/
def Obligations.AddSetsSumAndCarry : Prop :=
  ∀ (x y : Nibble) (s : State),
    let a := (s.reg x).toNat
    let b := (s.reg y).toNat
    WritesRegAndFlag (.addReg x y) s x (BitVec.ofNat 8 ((a + b) % 256)) (if a + b > 255 then 1 else 0)

/-- 41_register_alu.md R190, R182: both settings of SUB_WRITE_POLICY. -/
def Obligations.SubFollowsItsWritePolicy : Prop :=
  ∀ (x y : Nibble) (s : State),
    let a := (s.reg x).toNat
    let b := (s.reg y).toNat
    (s.params.subWrite = .writeAlways → WritesRegAndFlag (.subReg x y) s x
      (BitVec.ofNat 8 ((a + 256 - b) % 256)) (if a ≥ b then 1 else 0)) ∧
    (s.params.subWrite = .writeIfNoBorrow → WritesRegAndFlag (.subReg x y) s x
      (if a ≥ b then BitVec.ofNat 8 (a - b) else s.reg x) (if a ≥ b then 1 else 0))

/-- 41_register_alu.md R192: Vx is written under either policy. -/
def Obligations.SubnSetsReverseDifference : Prop :=
  ∀ (x y : Nibble) (s : State),
    let a := (s.reg x).toNat
    let b := (s.reg y).toNat
    WritesRegAndFlag (.subnReg x y) s x (BitVec.ofNat 8 ((b + 256 - a) % 256)) (if b ≥ a then 1 else 0)

/-- 41_register_alu.md R191, R193: the shifts act on Vx and ignore Vy. -/
def Obligations.ShiftsMoveVxByOne : Prop :=
  ∀ (x y : Nibble) (s : State),
    let a := (s.reg x).toNat
    WritesRegAndFlag (.shr x y) s x (BitVec.ofNat 8 (a / 2)) (BitVec.ofNat 8 (a % 2)) ∧
    WritesRegAndFlag (.shl x y) s x (BitVec.ofNat 8 (a * 2 % 256)) (BitVec.ofNat 8 (a / 128))

/-- 41_register_alu.md R194, R195, for every draw: the byte supplied first is used up, and with none supplied the
draw is the free value Config.randomByte, a new one each time (the model's form of the draw, log 4). -/
def Obligations.RndMasksItsDraw : Prop :=
  ∀ (x : Nibble) (kk : Byte) (s : State), ∃ t r, exec (.rnd x kk) s = .next t ∧
    t.reg x = r &&& kk ∧ (∀ j, j ≠ x → t.reg j = s.reg j) ∧ t.pc = s.pc + 2 ∧
    t.out = tracedOut s (.rnd x kk) ∧ AgreeExcept [.v, .pc, .draws, .drawCount, .out] s t ∧
    (∀ b bs, s.draws = b :: bs → r = b ∧ t.draws = bs ∧ t.drawCount = s.drawCount) ∧
    (s.draws = [] → r = randomByte s.drawCount ∧ t.draws = [] ∧ t.drawCount = s.drawCount + 1)

/-! ### Display -/

/-- 42_display.md R224. -/
def Obligations.ClsClearsEveryPixel : Prop :=
  ∀ s : State, ∃ t, exec .cls s = .next t ∧ (∀ px py, px < 64 → py < 32 → t.fb.pixel px py = false) ∧
    FrameOf t.fb = ∅ ∧ t.pc = s.pc + 2 ∧ t.out = tracedOut s .cls ∧ AgreeExcept [.fb, .pc, .out] s t

/-- 42_display.md R225 with R220 to R223: a DRW whose sprite is in memory flips exactly the pixels a 1 of the sprite
lands on, VF is 1 exactly when one of them was 1, and no other state but pc changes; one whose sprite reaches above
0xFFF raises DATA_ADDR with the lowest failing address. -/
def Obligations.DrwXorsTheSpriteAndReportsCollision : Prop :=
  ∀ (x y n : Nibble) (s : State),
    (n ≠ 0 → 0xFFF < s.iReg.toNat + (n.toNat - 1) →
      FaultsWith (.drw x y n) s 2 (BitVec.ofNat 16 (max s.iReg.toNat 0x1000))) ∧
    ((n = 0 ∨ s.iReg.toNat + (n.toNat - 1) ≤ 0xFFF) → ∃ t, exec (.drw x y n) s = .next t ∧
      (∀ px py, px < 64 → py < 32 →
        (SpriteCovers s x y n px py → t.fb.pixel px py = !s.fb.pixel px py) ∧
        (¬ SpriteCovers s x y n px py → t.fb.pixel px py = s.fb.pixel px py)) ∧
      ((∃ px py, px < 64 ∧ py < 32 ∧ SpriteCovers s x y n px py ∧ s.fb.pixel px py = true) → t.reg 0xF = 1) ∧
      ((¬ ∃ px py, px < 64 ∧ py < 32 ∧ SpriteCovers s x y n px py ∧ s.fb.pixel px py = true) → t.reg 0xF = 0) ∧
      (∀ j, j ≠ 0xF → t.reg j = s.reg j) ∧ t.pc = s.pc + 2 ∧ t.out = tracedOut s (.drw x y n) ∧
      AgreeExcept [.v, .fb, .pc, .out] s t)

/-- The example of 42_display.md R225: the same sprite drawn twice restores the screen, and the second draw collides
if the sprite set any clear pixel in the first. VF is no coordinate, since the first draw writes it. -/
def Obligations.DrawingTwiceRestoresTheScreen : Prop :=
  ∀ (x y n : Nibble) (s t : State), x ≠ 0xF → y ≠ 0xF →
    (n = 0 ∨ s.iReg.toNat + (n.toNat - 1) ≤ 0xFFF) → exec (.drw x y n) s = .next t → ∃ u, exec (.drw x y n) t = .next u ∧ u.fb = s.fb ∧
      ((∃ px py, px < 64 ∧ py < 32 ∧ SpriteCovers s x y n px py ∧ s.fb.pixel px py = false) → u.reg 0xF = 1)

/-! ### Keys and timers -/

/-- 43_keyboard_timers.md R251, R252 under Implemented. -/
def Obligations.KeySkipsReadTheMask : Prop :=
  ∀ (x : Nibble) (s : State), s.params.keyMode = .implemented →
    ((s.reg x).toNat ≤ 15 →
      OnlyPcMoves (.skp x) s (if s.keys.getLsbD (s.reg x).toNat = true then s.pc + 4 else s.pc + 2) ∧
      OnlyPcMoves (.sknp x) s (if s.keys.getLsbD (s.reg x).toNat = false then s.pc + 4 else s.pc + 2)) ∧
    (15 < (s.reg x).toNat →
      FaultsWith (.skp x) s 5 (BitVec.ofNat 16 (s.reg x).toNat) ∧
      FaultsWith (.sknp x) s 5 (BitVec.ofNat 16 (s.reg x).toNat))

/-- 43_keyboard_timers.md R254 under Implemented: with no key held pc stays; else the lowest held key goes to Vx. -/
def Obligations.KeyWaitTakesTheLowestKey : Prop :=
  ∀ (x : Nibble) (s : State), s.params.keyMode = .implemented →
    (s.keys = 0 → OnlyPcMoves (.ldVxK x) s s.pc) ∧
    (∀ k, k < 16 → s.keys.getLsbD k = true → (∀ j, j < k → s.keys.getLsbD j = false) →
      WritesReg (.ldVxK x) s x (BitVec.ofNat 8 k))

/-- 43_keyboard_timers.md R257. -/
def Obligations.StubbedKeyInstructionsOnlyAdvance : Prop :=
  ∀ (x : Nibble) (s : State), s.params.keyMode = .stubbed →
    OnlyPcMoves (.skp x) s (s.pc + 2) ∧ OnlyPcMoves (.sknp x) s (s.pc + 2) ∧
    OnlyPcMoves (.ldVxK x) s (s.pc + 2)

/-- 43_keyboard_timers.md R253, R255, R256. -/
def Obligations.TimerInstructionsMoveTheTimers : Prop :=
  ∀ (x : Nibble) (s : State),
    WritesReg (.ldVxDT x) s x s.dt ∧
    (∃ t, exec (.ldDTVx x) s = .next t ∧ t.dt = s.reg x ∧ t.pc = s.pc + 2 ∧
      t.out = tracedOut s (.ldDTVx x) ∧ AgreeExcept [.dt, .pc, .out] s t) ∧
    (∃ t, exec (.ldSTVx x) s = .next t ∧ t.st = s.reg x ∧ t.pc = s.pc + 2 ∧
      t.out = tracedOut s (.ldSTVx x) ∧ AgreeExcept [.st, .pc, .out] s t ∧
      (t.soundOn = true ↔ s.reg x ≠ 0))

/-! ### The address register and memory transfers -/

/-- 44_index_memory.md R280 to R282. -/
def Obligations.AddressRegisterOps : Prop :=
  ∀ (nnn : Addr) (x : Nibble) (s : State),
    WritesI (.ldI nnn) s (BitVec.ofNat 16 nnn.toNat) ∧
    WritesI (.addI x) s (BitVec.ofNat 16 ((s.iReg.toNat + (s.reg x).toNat) % 65536)) ∧
    WritesI (.ldF x) s (BitVec.ofNat 16 ((s.reg x).toNat % 16 * 5))

/-- 44_index_memory.md R283, on memory in its canonical form: the three digits are stored at I, I + 1, I + 2 and every
other byte reads as before; with I + 2 above 0xFFF it raises DATA_ADDR and stores nothing. -/
def Obligations.BcdStoresThreeDigits : Prop :=
  ∀ (x : Nibble) (s : State), Memory.wf s.params.font s.mem →
    (0xFFF < s.iReg.toNat + 2 → FaultsWith (.ldB x) s 2 (BitVec.ofNat 16 (max s.iReg.toNat 0x1000))) ∧
    (s.iReg.toNat + 2 ≤ 0xFFF → ∃ t, exec (.ldB x) s = .next t ∧
      (t.byteAt s.iReg.toNat).toNat = (s.reg x).toNat / 100 ∧
      (t.byteAt (s.iReg.toNat + 1)).toNat = (s.reg x).toNat / 10 % 10 ∧
      (t.byteAt (s.iReg.toNat + 2)).toNat = (s.reg x).toNat % 10 ∧
      (∀ a, a < s.iReg.toNat ∨ s.iReg.toNat + 3 ≤ a → t.byteAt a = s.byteAt a) ∧
      t.pc = s.pc + 2 ∧ t.out = tracedOut s (.ldB x) ∧ AgreeExcept [.mem, .pc, .out] s t)

/-- 44_index_memory.md R284, on memory in its canonical form; with I + x above 0xFFF it raises DATA_ADDR and stores
nothing. -/
def Obligations.StoreBlockWritesV0ToVx : Prop :=
  ∀ (x : Nibble) (s : State), Memory.wf s.params.font s.mem →
    (0xFFF < s.iReg.toNat + x.toNat → FaultsWith (.storeRegs x) s 2 (BitVec.ofNat 16 (max s.iReg.toNat 0x1000))) ∧
    (s.iReg.toNat + x.toNat ≤ 0xFFF → ∃ t, exec (.storeRegs x) s = .next t ∧
      (∀ j : Nibble, j.toNat ≤ x.toNat → t.byteAt (s.iReg.toNat + j.toNat) = s.reg j) ∧
      (∀ a, a < s.iReg.toNat ∨ s.iReg.toNat + x.toNat < a → t.byteAt a = s.byteAt a) ∧
      t.pc = s.pc + 2 ∧ t.out = tracedOut s (.storeRegs x) ∧ AgreeExcept [.mem, .pc, .out] s t)

/-- 44_index_memory.md R285; with I + x above 0xFFF it raises DATA_ADDR and loads nothing. -/
def Obligations.LoadBlockReadsV0ToVx : Prop :=
  ∀ (x : Nibble) (s : State),
    (0xFFF < s.iReg.toNat + x.toNat → FaultsWith (.loadRegs x) s 2 (BitVec.ofNat 16 (max s.iReg.toNat 0x1000))) ∧
    (s.iReg.toNat + x.toNat ≤ 0xFFF → ∃ t, exec (.loadRegs x) s = .next t ∧
      (∀ j : Nibble, j.toNat ≤ x.toNat → t.reg j = s.byteAt (s.iReg.toNat + j.toNat)) ∧
      (∀ j : Nibble, x.toNat < j.toNat → t.reg j = s.reg j) ∧
      t.pc = s.pc + 2 ∧ t.out = tracedOut s (.loadRegs x) ∧ AgreeExcept [.v, .pc, .out] s t)

/-- 44_index_memory.md R287: a store then a load of the same block, with I and the block's bytes unchanged between
them, leaves V0 to Vx as they were before the store. -/
def Obligations.StoreThenLoadRoundTrips : Prop :=
  ∀ (x : Nibble) (s t r : State), Memory.wf s.params.font s.mem → s.iReg.toNat + x.toNat ≤ 0xFFF →
    exec (.storeRegs x) s = .next t → r.iReg = t.iReg →
    (∀ k, k ≤ x.toNat → r.byteAt (s.iReg.toNat + k) = t.byteAt (s.iReg.toNat + k)) →
    ∃ u, exec (.loadRegs x) r = .next u ∧ ∀ j : Nibble, j.toNat ≤ x.toNat → u.reg j = s.reg j

/-! ### Whole-machine rules over all instructions -/

/-- 10_state.md R33: an instruction changes only the general registers listed for it. -/
def Obligations.OnlyListedRegistersAreWritten : Prop :=
  ∀ (i : Instr) (s t : State) (j : Nibble), exec i s = .next t → t.reg j ≠ s.reg j → mayWriteReg i j = true

/-- 10_state.md R39, R40: only CALL and RET change sp, only CALL changes the stack, and never entry 0. -/
def Obligations.OnlyCallAndRetMoveTheStack : Prop :=
  ∀ (i : Instr) (s t : State), exec i s = .next t →
    (t.sp ≠ s.sp → i = .ret ∨ ∃ nnn, i = .call nnn) ∧
    (t.stack ≠ s.stack → ∃ nnn, i = .call nnn) ∧ t.stackEntry 0 = s.stackEntry 0

/-- 10_state.md R41 to R43, R34, 20_memory.md R80: which instructions write I, the timers, the screen and memory; the
keys none does. -/
def Obligations.OtherStateHasItsListedWriters : Prop :=
  ∀ (i : Instr) (s t : State), exec i s = .next t →
    (t.iReg ≠ s.iReg → (∃ a, i = .ldI a) ∨ (∃ x, i = .addI x) ∨ (∃ x, i = .ldF x)) ∧
    (t.dt ≠ s.dt → ∃ x, i = .ldDTVx x) ∧ (t.st ≠ s.st → ∃ x, i = .ldSTVx x) ∧
    (t.fb ≠ s.fb → i = .cls ∨ ∃ x y n, i = .drw x y n) ∧
    (t.mem ≠ s.mem → (∃ x, i = .ldB x) ∨ (∃ x, i = .storeRegs x)) ∧ t.keys = s.keys

/-- 60_exceptions.md R340: no instruction touches a queue, a due bit, another loop, the unimplemented record or the
parameters; the run flag and the fault record change only by fault entry. -/
def Obligations.InstructionsLeaveControlStateAlone : Prop :=
  ∀ (i : Instr) (s t : State), exec i s = .next t →
    t.timerLoop = s.timerLoop ∧ t.displayLoop = s.displayLoop ∧ t.unimpl = s.unimpl ∧ t.params = s.params ∧
    t.agenda = s.agenda ∧ t.cpuLoop.queue = s.cpuLoop.queue ∧ t.cpuLoop.due = s.cpuLoop.due ∧
    t.cpuLoop.midPass = s.cpuLoop.midPass ∧
    ((t.cpuLoop.run ≠ s.cpuLoop.run ∨ t.fault ≠ s.fault) → ∃ code info, FaultEntry code info s t)

/-- 60_exceptions.md R337: switching the trace on or off changes nothing but the trace records: every part of the state
and every other output, fault and unimplemented reports too, is the same, for every instruction and for a whole CPU unit
of work, Unimplemented words included. -/
def Obligations.TraceSwitchChangesNothingElse : Prop :=
  ∀ (s t : State) (b : Bool),
    (∀ i, exec i s = .next t → ∃ t', exec i (s.withTrace b) = .next t' ∧
      AgreeExcept [.params, .out] t t' ∧ t'.params = (t.withTrace b).params ∧ t'.untraced = t.untraced) ∧
    (cpuUnit s = .next t → ∃ t', cpuUnit (s.withTrace b) = .next t' ∧
      AgreeExcept [.params, .out] t t' ∧ t'.params = (t.withTrace b).params ∧ t'.untraced = t.untraced)

/-! ### Memory -/

/-- 20_memory.md R91, R78: the next fetch sees the bytes the instruction before it stored: when LD [I], Vx stores over
the next instruction's two bytes, the word fetched there is the two registers, big-endian. -/
def Obligations.StoresAreSeenByTheNextFetch : Prop :=
  ∀ (x j k : Nibble) (s t : State), Memory.wf s.params.font s.mem → s.iReg.toNat + x.toNat ≤ 0xFFF →
    exec (.storeRegs x) s = .next t → k.toNat = j.toNat + 1 → k.toNat ≤ x.toNat →
    (s.pc + 2).toNat = s.iReg.toNat + j.toNat →
    ∃ w, fetch16 t = .ok w ∧ w.toNat = (s.reg j).toNat * 256 + (s.reg k).toNat

/-! ### Timers, display export, and the multiplexer -/

/-- 60_exceptions.md R330: one Timer unit, applied by a Step message or a running loop's tick, takes both timers down
by 1, never below 0. -/
def Obligations.TimerUnitCountsBothDown : Prop :=
  ∀ s : State, ∃ t, unitOf .timer s = .next t ∧ t.dt.toNat = s.dt.toNat - 1 ∧ t.st.toNat = s.st.toNat - 1 ∧
    AgreeExcept [.dt, .st] s t

/-- 60_exceptions.md R331: a Display unit emits the frame, as the full-grid snapshot (the model's own form, log 13), and
changes no state. -/
def Obligations.DisplayUnitOnlyExportsTheFrame : Prop :=
  ∀ s : State, ∃ t, unitOf .display s = .next t ∧ t.out = .frame s.fb :: s.out ∧ AgreeExcept [.out] s t

/-- 60_exceptions.md R324 to R326: transition A with Start or Stop takes the message off the queue, sets the run flag,
notes whether a tick is due (in midPass, log 6; the choice of the pass is the agenda's, log 2), and does no unit of
work. -/
def Obligations.StartAndStopSetTheRunFlag : Prop :=
  ∀ (s : State) (l : Loop) (rest : List Action) (m : Msg) (q : List Msg),
    s.agenda = .pass l :: rest → (s.loop l).midPass = false → (s.loop l).queue = m :: q → m ≠ .step →
    ∃ t, step s = .next t ∧
      t.loop l = { run := if m = .start then .running else .stopped, queue := q, due := (s.loop l).due,
                   midPass := (s.loop l).due } ∧
      (∀ l', l' ≠ l → t.loop l' = s.loop l') ∧ t.agenda = rest ∧
      AgreeExcept [.cpuLoop, .timerLoop, .displayLoop, .agenda] s t

/-- 60_exceptions.md R327, R324: transition A with Step is exactly one unit of the loop, whatever its run flag is; the
flag is unchanged unless the CPU's unit faults. In the model's forms of the choice (log 2) and of a pass (log 6). -/
def Obligations.StepMessageDoesExactlyOneUnit : Prop :=
  ∀ (s : State) (l : Loop) (rest : List Action) (q : List Msg),
    s.agenda = .pass l :: rest → (s.loop l).midPass = false → (s.loop l).queue = .step :: q →
    ∃ r : State, AgreeExcept [.cpuLoop, .timerLoop, .displayLoop, .agenda] s r ∧ r.agenda = rest ∧
      r.loop l = { run := (s.loop l).run, queue := q, due := (s.loop l).due, midPass := (s.loop l).due } ∧
      (∀ l', l' ≠ l → r.loop l' = s.loop l') ∧ step s = unitOf l r ∧
      ∀ t, step s = .next t → (t.loop l).queue = q ∧
        ((t.loop l).run = (s.loop l).run ∨ (l = .cpu ∧ ∃ code info, FaultEntry code info r t))

/-- 60_exceptions.md R324, R326, R328: transition B consumes the tick; a Running loop does one unit, a Stopped loop
none. In the model's forms of the choice (log 2) and of a pass (log 6). -/
def Obligations.TickWorksOnlyWhenRunning : Prop :=
  ∀ (s : State) (l : Loop) (rest : List Action),
    s.agenda = .pass l :: rest →
    ((s.loop l).midPass = true ∨ (s.loop l).queue = [] ∧ (s.loop l).due = true) →
    ∃ r : State, AgreeExcept [.cpuLoop, .timerLoop, .displayLoop, .agenda] s r ∧ r.agenda = rest ∧
      r.loop l = { run := (s.loop l).run, queue := (s.loop l).queue, due := false, midPass := false } ∧
      (∀ l', l' ≠ l → r.loop l' = s.loop l') ∧
      ((s.loop l).run = .running → step s = unitOf l r) ∧ ((s.loop l).run = .stopped → step s = .next r)

/-- 60_exceptions.md R328, R324: a trigger sets the due bit and nothing else; a second one before the pass is
absorbed; a loop with no message and no tick waits. In the model's form of the choice (log 2): a chosen pass of a loop
that waits uses up the choice. -/
def Obligations.TriggersCoalesceAndIdleLoopsWait : Prop :=
  ∀ (s : State) (l : Loop) (rest : List Action),
    (s.agenda = .host (.trigger l) :: rest → ∃ t, step s = .next t ∧ t.agenda = rest ∧
      t.loop l = { s.loop l with due := true } ∧ (∀ l', l' ≠ l → t.loop l' = s.loop l') ∧
      AgreeExcept [.cpuLoop, .timerLoop, .displayLoop, .agenda] s t ∧
      ((s.loop l).due = true → AgreeExcept [.agenda] s t)) ∧
    (s.agenda = .pass l :: rest → (s.loop l).midPass = false → (s.loop l).queue = [] → (s.loop l).due = false →
      step s = .next { s with agenda := rest })

/-- 60_exceptions.md R332: a send to a queue with room (CTRL_QUEUE_DEPTH unbounded, or more than the messages queued; a
depth of 0, which 00_scope.md R7 excludes, counts as 1, log 15) appends at the tail; a send to a full queue stays pending,
first in the environment's order, while the loop makes its next transition (the model's own order, log 7). -/
def Obligations.SendIsFifoAndNeverLost : Prop :=
  ∀ (s : State) (l : Loop) (m : Msg) (rest : List Action), s.agenda = .host (.send l m) :: rest →
    ((s.params.queueDepth = none ∨ ∃ d, s.params.queueDepth = some d ∧ (s.loop l).queue.length < max d 1) →
      ∃ t, step s = .next t ∧ t.agenda = rest ∧
        t.loop l = { s.loop l with queue := (s.loop l).queue ++ [m] } ∧ (∀ l', l' ≠ l → t.loop l' = s.loop l') ∧
        AgreeExcept [.cpuLoop, .timerLoop, .displayLoop, .agenda] s t) ∧
    (∀ d, s.params.queueDepth = some d → max d 1 ≤ (s.loop l).queue.length →
      step s = passTransition l s ∧ ∀ t, step s = .next t → t.agenda = s.agenda)

/-- 60_exceptions.md R344, R326: a quiescent CPU executes nothing: a transition of its loop's pass (chosen in the agenda,
log 2), even one that completes a pass under way (log 6), changes at most its tick, and it stays quiescent; and a fault
makes the CPU quiescent unless messages are queued. -/
def Obligations.QuiescentCpuExecutesNothing : Prop :=
  (∀ (s : State) (rest : List Action), s.CpuQuiescent → s.agenda = .pass .cpu :: rest →
    ∃ t, step s = .next t ∧ t.CpuQuiescent ∧ t.agenda = rest ∧ AgreeExcept [.cpuLoop, .agenda] s t) ∧
  (∀ (s t : State) (code : Byte) (info : Word), cpuUnit s = .next t → FaultEntry code info s t →
    (t.CpuQuiescent ↔ s.cpuLoop.queue = []))

/-! ### Host operations -/

/-- 20_memory.md R84, on memory in its canonical form: a program of at most 3584 bytes is stored at 0x200 and nothing
else changes; a longer one is refused with LOAD_TOO_LONG and stores nothing. The operation is the agenda's next
(log 2), and its result goes to the output log (log 5). -/
def Obligations.ProgramLoadIsAllOrNothing : Prop :=
  ∀ (s : State) (bytes : List Byte) (rest : List Action), s.agenda = .host (.load bytes) :: rest →
    Memory.wf s.params.font s.mem →
    (bytes.length ≤ 3584 → ∃ t, step s = .next t ∧ t.agenda = rest ∧ t.out = .loaded .ok :: s.out ∧
      (∀ k, ∀ h : k < bytes.length, t.byteAt (0x200 + k) = bytes[k]) ∧
      (∀ a, a < 0x200 ∨ 0x200 + bytes.length ≤ a → t.byteAt a = s.byteAt a) ∧
      AgreeExcept [.mem, .agenda, .out] s t) ∧
    (3584 < bytes.length → ∃ t, step s = .next t ∧ t.agenda = rest ∧ t.out = .loaded .tooLong :: s.out ∧
      AgreeExcept [.agenda, .out] s t)

/-- 60_exceptions.md R336: key_set, key_clear and key_query act on bit k alone; a k outside 0 to 15 is refused and
changes nothing (the answer keyRefused is the model's own, log 14; the operation is the agenda's next, log 2). -/
def Obligations.KeyOperationsActOnOneKey : Prop :=
  ∀ (s : State) (k : Nat) (op : HostOp) (rest : List Action), s.agenda = .host op :: rest →
    op = .keySet k ∨ op = .keyClear k ∨ op = .keyQuery k →
    ∃ t, step s = .next t ∧ t.agenda = rest ∧ AgreeExcept [.keys, .agenda, .out] s t ∧
      (k ≤ 15 →
        (∀ j, j < 16 → j ≠ k → t.keys.getLsbD j = s.keys.getLsbD j) ∧
        (op = .keySet k → t.keys.getLsbD k = true ∧ t.out = s.out) ∧
        (op = .keyClear k → t.keys.getLsbD k = false ∧ t.out = s.out) ∧
        (op = .keyQuery k → t.keys = s.keys ∧ t.out = .keyState k (s.keys.getLsbD k) :: s.out)) ∧
      (15 < k → t.keys = s.keys ∧ t.out = .keyRefused k :: s.out)

/-- 60_exceptions.md R335, R338, for a transaction the agenda has next (log 2): none but reset changes a register, I, pc,
sp, the stack, a timer, the screen, a run flag, a pass under way (log 6) or a record; read_frame and read_status only
answer; a supplied random byte (log 4) only joins the draws, after the earlier ones. -/
def Obligations.HostCannotWriteProcessorState : Prop :=
  ∀ (s t : State) (op : HostOp) (rest : List Action), s.agenda = .host op :: rest →
    blockedOn (.host op) s = none → step s = .next t → op ≠ .reset →
    AgreeExcept [.mem, .keys, .cpuLoop, .timerLoop, .displayLoop, .agenda, .draws, .out] s t ∧
    (∀ l, (t.loop l).run = (s.loop l).run ∧ (t.loop l).midPass = (s.loop l).midPass) ∧
    (∀ b, op = .supplyRandom b → t.draws = s.draws ++ [b] ∧ AgreeExcept [.agenda, .draws] s t) ∧
    ((∀ b, op ≠ .supplyRandom b) → t.draws = s.draws) ∧
    (op = .readFrame → t.out = .frameRead s.fb :: s.out ∧ AgreeExcept [.agenda, .out] s t) ∧
    (op = .readStatus → AgreeExcept [.agenda, .out] s t ∧
      t.out = .status { cpuRun := s.cpuLoop.run, timerRun := s.timerLoop.run, displayRun := s.displayLoop.run,
                        fault := s.fault, unimpl := s.unimpl } :: s.out)

/-! ### Reset -/

/-- 10_state.md R51: every piece of state at its reset value, under every setting of the parameters FONT_TABLE and
INITIAL_RUN_STATE. -/
def Obligations.ResetValues : Prop :=
  ∀ p : Params,
    let s := State.powerOn p
    (∀ x, s.reg x = 0) ∧ s.iReg = 0 ∧ s.pc = 0x200 ∧ s.sp = 0 ∧ (∀ j : Fin 16, s.stackEntry j = some 0) ∧
    s.dt = 0 ∧ s.st = 0 ∧ s.keys = 0 ∧ (∀ px py, s.fb.pixel px py = false) ∧
    s.cpuLoop.run = p.initialRunCpu ∧ s.timerLoop.run = p.initialRunTimer ∧
    s.displayLoop.run = p.initialRunDisplay ∧ (∀ l, (s.loop l).queue = [] ∧ (s.loop l).due = false) ∧
    s.fault = { cause := 0, pc := 0, info := 0 } ∧ s.unimpl = { seen := false, pc := 0, word := 0 } ∧
    (∀ k r : Nat, ∀ hk : k < 16, ∀ hr : r < 5, s.byteAt (5 * k + r) = p.font[k][r]) ∧
    (∀ a, 80 ≤ a → a < 0x1000 → s.byteAt a = 0)

/-- The machine after reset has the default parameters of 00_scope.md R7, and its font is the standard one of
20_memory.md R76, which the spec takes from general knowledge (PRESUMED, log 10). -/
def Obligations.ResetHasTheDefaultParameters : Prop :=
  let s := State.reset
  (∀ l, (s.loop l).run = .stopped) ∧ s.params.subWrite = .writeAlways ∧ s.params.unimplPolicy = .faults ∧
  s.params.keyMode = .implemented ∧ s.params.queueDepth = none ∧ s.params.traceEnable = true ∧
  (List.range 80).map s.byteAt =
    ([0xF0, 0x90, 0x90, 0x90, 0xF0] ++ [0x20, 0x60, 0x20, 0x20, 0x70] ++
     [0xF0, 0x10, 0xF0, 0x80, 0xF0] ++ [0xF0, 0x10, 0xF0, 0x10, 0xF0] ++
     [0x90, 0x90, 0xF0, 0x10, 0x10] ++ [0xF0, 0x80, 0xF0, 0x10, 0xF0] ++
     [0xF0, 0x80, 0xF0, 0x90, 0xF0] ++ [0xF0, 0x10, 0x20, 0x40, 0x40] ++
     [0xF0, 0x90, 0xF0, 0x90, 0xF0] ++ [0xF0, 0x90, 0xF0, 0x10, 0xF0] ++
     [0xF0, 0x90, 0xF0, 0x90, 0x90] ++ [0xE0, 0x90, 0xE0, 0x90, 0xE0] ++
     [0xF0, 0x80, 0x80, 0x80, 0xF0] ++ [0xE0, 0x90, 0x90, 0x90, 0xE0] ++
     [0xF0, 0x80, 0xF0, 0x80, 0xF0] ++ [0xF0, 0x80, 0xF0, 0x80, 0x80])

/-- 70_reset_and_hazards.md R390, R391: reset() from any state leaves the state of power-on, with the machine's
parameters, and emits nothing; what the environment holds stays (the model's own, log 11). -/
def Obligations.ResetTransactionRestoresPowerOn : Prop :=
  ∀ (s : State) (rest : List Action), s.agenda = .host .reset :: rest →
    ∃ t, step s = .next t ∧ t.out = s.out ∧ t.agenda = rest ∧ t.rounds = s.rounds ∧ t.draws = s.draws ∧
      t.drawCount = s.drawCount ∧
      AgreeExcept [.out, .agenda, .rounds, .draws, .drawCount] (State.powerOn s.params) t

/-! ### The invariant -/

/-- The invariant holds after reset, under every setting of the parameters. -/
def Obligations.PowerOnMeetsTheInvariant : Prop :=
  State.reset.Inv ∧ ∀ p : Params, (State.powerOn p).Inv

/-- Every step keeps the invariant, whatever the environment chose: sp stays legal, pc and the return addresses stay
in range, entry 0 stays 0, memory stays canonical, the records and the loops' control state stay legal. -/
def Obligations.StepKeepsTheInvariant : Prop :=
  ∀ s t : State, s.Inv → step s = .next t → t.Inv

/-- In a state of the invariant every step answers a next state, so the machine never stops (60_exceptions.md R344, "The
block never halts by itself"), and every loop is served: whatever the environment chose and whatever it chooses in its
free rounds, a state is reached whose step is the next transition of the loop's pass (60_exceptions.md R333, weak
fairness, in the model's form of rounds, log 17): the pass is first in the agenda, or the agenda is used up and the pass
is first in the round chosen next. -/
def Obligations.StepNeverStopsAndServesEveryLoop : Prop :=
  ∀ s : State, s.Inv → (∃ t, step s = .next t) ∧
    ∀ l, ∃ t, s.Reaches t ∧
      ((∃ rest, t.agenda = .pass l :: rest ∧ step t = passTransition l { t with agenda := rest }) ∨
       (t.agenda = [] ∧ (fairRound (freeRound t.rounds)).1 = .pass l ∧
        step t = passTransition l { t with
          agenda := (fairRound (freeRound t.rounds)).2, rounds := t.rounds + 1 }))
end

