-- ==== Sys2Proof/Laws/State.lean ====
section
/-! SUPPORT. One lemma per field per update of State, so that no later proof unfolds a record update. -/

namespace Sys2Proof.Machine

variable (s : State)

/-! ### `setReg` -/

@[simp] theorem State.setReg_v (x : Nibble) (b : Byte) : (s.setReg x b).v = s.v.set x.toNat b := rfl
@[simp] theorem State.setReg_iReg (x : Nibble) (b : Byte) : (s.setReg x b).iReg = s.iReg := rfl
@[simp] theorem State.setReg_pc (x : Nibble) (b : Byte) : (s.setReg x b).pc = s.pc := rfl
@[simp] theorem State.setReg_sp (x : Nibble) (b : Byte) : (s.setReg x b).sp = s.sp := rfl
@[simp] theorem State.setReg_stack (x : Nibble) (b : Byte) : (s.setReg x b).stack = s.stack := rfl
@[simp] theorem State.setReg_dt (x : Nibble) (b : Byte) : (s.setReg x b).dt = s.dt := rfl
@[simp] theorem State.setReg_st (x : Nibble) (b : Byte) : (s.setReg x b).st = s.st := rfl
@[simp] theorem State.setReg_keys (x : Nibble) (b : Byte) : (s.setReg x b).keys = s.keys := rfl
@[simp] theorem State.setReg_fb (x : Nibble) (b : Byte) : (s.setReg x b).fb = s.fb := rfl
@[simp] theorem State.setReg_mem (x : Nibble) (b : Byte) : (s.setReg x b).mem = s.mem := rfl
@[simp] theorem State.setReg_cpuLoop (x : Nibble) (b : Byte) : (s.setReg x b).cpuLoop = s.cpuLoop := rfl
@[simp] theorem State.setReg_timerLoop (x : Nibble) (b : Byte) : (s.setReg x b).timerLoop = s.timerLoop := rfl
@[simp] theorem State.setReg_displayLoop (x : Nibble) (b : Byte) : (s.setReg x b).displayLoop = s.displayLoop := rfl
@[simp] theorem State.setReg_fault (x : Nibble) (b : Byte) : (s.setReg x b).fault = s.fault := rfl
@[simp] theorem State.setReg_unimpl (x : Nibble) (b : Byte) : (s.setReg x b).unimpl = s.unimpl := rfl
@[simp] theorem State.setReg_params (x : Nibble) (b : Byte) : (s.setReg x b).params = s.params := rfl
@[simp] theorem State.setReg_agenda (x : Nibble) (b : Byte) : (s.setReg x b).agenda = s.agenda := rfl
@[simp] theorem State.setReg_rounds (x : Nibble) (b : Byte) : (s.setReg x b).rounds = s.rounds := rfl
@[simp] theorem State.setReg_draws (x : Nibble) (b : Byte) : (s.setReg x b).draws = s.draws := rfl
@[simp] theorem State.setReg_drawCount (x : Nibble) (b : Byte) : (s.setReg x b).drawCount = s.drawCount := rfl
@[simp] theorem State.setReg_out (x : Nibble) (b : Byte) : (s.setReg x b).out = s.out := rfl

/-! ### `setI` -/

@[simp] theorem State.setI_v (a : Word) : (s.setI a).v = s.v := rfl
@[simp] theorem State.setI_iReg (a : Word) : (s.setI a).iReg = a := rfl
@[simp] theorem State.setI_pc (a : Word) : (s.setI a).pc = s.pc := rfl
@[simp] theorem State.setI_sp (a : Word) : (s.setI a).sp = s.sp := rfl
@[simp] theorem State.setI_stack (a : Word) : (s.setI a).stack = s.stack := rfl
@[simp] theorem State.setI_dt (a : Word) : (s.setI a).dt = s.dt := rfl
@[simp] theorem State.setI_st (a : Word) : (s.setI a).st = s.st := rfl
@[simp] theorem State.setI_keys (a : Word) : (s.setI a).keys = s.keys := rfl
@[simp] theorem State.setI_fb (a : Word) : (s.setI a).fb = s.fb := rfl
@[simp] theorem State.setI_mem (a : Word) : (s.setI a).mem = s.mem := rfl
@[simp] theorem State.setI_cpuLoop (a : Word) : (s.setI a).cpuLoop = s.cpuLoop := rfl
@[simp] theorem State.setI_timerLoop (a : Word) : (s.setI a).timerLoop = s.timerLoop := rfl
@[simp] theorem State.setI_displayLoop (a : Word) : (s.setI a).displayLoop = s.displayLoop := rfl
@[simp] theorem State.setI_fault (a : Word) : (s.setI a).fault = s.fault := rfl
@[simp] theorem State.setI_unimpl (a : Word) : (s.setI a).unimpl = s.unimpl := rfl
@[simp] theorem State.setI_params (a : Word) : (s.setI a).params = s.params := rfl
@[simp] theorem State.setI_agenda (a : Word) : (s.setI a).agenda = s.agenda := rfl
@[simp] theorem State.setI_rounds (a : Word) : (s.setI a).rounds = s.rounds := rfl
@[simp] theorem State.setI_draws (a : Word) : (s.setI a).draws = s.draws := rfl
@[simp] theorem State.setI_drawCount (a : Word) : (s.setI a).drawCount = s.drawCount := rfl
@[simp] theorem State.setI_out (a : Word) : (s.setI a).out = s.out := rfl

/-! ### `setPc` -/

@[simp] theorem State.setPc_v (a : Word) : (s.setPc a).v = s.v := rfl
@[simp] theorem State.setPc_iReg (a : Word) : (s.setPc a).iReg = s.iReg := rfl
@[simp] theorem State.setPc_pc (a : Word) : (s.setPc a).pc = a := rfl
@[simp] theorem State.setPc_sp (a : Word) : (s.setPc a).sp = s.sp := rfl
@[simp] theorem State.setPc_stack (a : Word) : (s.setPc a).stack = s.stack := rfl
@[simp] theorem State.setPc_dt (a : Word) : (s.setPc a).dt = s.dt := rfl
@[simp] theorem State.setPc_st (a : Word) : (s.setPc a).st = s.st := rfl
@[simp] theorem State.setPc_keys (a : Word) : (s.setPc a).keys = s.keys := rfl
@[simp] theorem State.setPc_fb (a : Word) : (s.setPc a).fb = s.fb := rfl
@[simp] theorem State.setPc_mem (a : Word) : (s.setPc a).mem = s.mem := rfl
@[simp] theorem State.setPc_cpuLoop (a : Word) : (s.setPc a).cpuLoop = s.cpuLoop := rfl
@[simp] theorem State.setPc_timerLoop (a : Word) : (s.setPc a).timerLoop = s.timerLoop := rfl
@[simp] theorem State.setPc_displayLoop (a : Word) : (s.setPc a).displayLoop = s.displayLoop := rfl
@[simp] theorem State.setPc_fault (a : Word) : (s.setPc a).fault = s.fault := rfl
@[simp] theorem State.setPc_unimpl (a : Word) : (s.setPc a).unimpl = s.unimpl := rfl
@[simp] theorem State.setPc_params (a : Word) : (s.setPc a).params = s.params := rfl
@[simp] theorem State.setPc_agenda (a : Word) : (s.setPc a).agenda = s.agenda := rfl
@[simp] theorem State.setPc_rounds (a : Word) : (s.setPc a).rounds = s.rounds := rfl
@[simp] theorem State.setPc_draws (a : Word) : (s.setPc a).draws = s.draws := rfl
@[simp] theorem State.setPc_drawCount (a : Word) : (s.setPc a).drawCount = s.drawCount := rfl
@[simp] theorem State.setPc_out (a : Word) : (s.setPc a).out = s.out := rfl

/-! ### `setDt` -/

@[simp] theorem State.setDt_v (b : Byte) : (s.setDt b).v = s.v := rfl
@[simp] theorem State.setDt_iReg (b : Byte) : (s.setDt b).iReg = s.iReg := rfl
@[simp] theorem State.setDt_pc (b : Byte) : (s.setDt b).pc = s.pc := rfl
@[simp] theorem State.setDt_sp (b : Byte) : (s.setDt b).sp = s.sp := rfl
@[simp] theorem State.setDt_stack (b : Byte) : (s.setDt b).stack = s.stack := rfl
@[simp] theorem State.setDt_dt (b : Byte) : (s.setDt b).dt = b := rfl
@[simp] theorem State.setDt_st (b : Byte) : (s.setDt b).st = s.st := rfl
@[simp] theorem State.setDt_keys (b : Byte) : (s.setDt b).keys = s.keys := rfl
@[simp] theorem State.setDt_fb (b : Byte) : (s.setDt b).fb = s.fb := rfl
@[simp] theorem State.setDt_mem (b : Byte) : (s.setDt b).mem = s.mem := rfl
@[simp] theorem State.setDt_cpuLoop (b : Byte) : (s.setDt b).cpuLoop = s.cpuLoop := rfl
@[simp] theorem State.setDt_timerLoop (b : Byte) : (s.setDt b).timerLoop = s.timerLoop := rfl
@[simp] theorem State.setDt_displayLoop (b : Byte) : (s.setDt b).displayLoop = s.displayLoop := rfl
@[simp] theorem State.setDt_fault (b : Byte) : (s.setDt b).fault = s.fault := rfl
@[simp] theorem State.setDt_unimpl (b : Byte) : (s.setDt b).unimpl = s.unimpl := rfl
@[simp] theorem State.setDt_params (b : Byte) : (s.setDt b).params = s.params := rfl
@[simp] theorem State.setDt_agenda (b : Byte) : (s.setDt b).agenda = s.agenda := rfl
@[simp] theorem State.setDt_rounds (b : Byte) : (s.setDt b).rounds = s.rounds := rfl
@[simp] theorem State.setDt_draws (b : Byte) : (s.setDt b).draws = s.draws := rfl
@[simp] theorem State.setDt_drawCount (b : Byte) : (s.setDt b).drawCount = s.drawCount := rfl
@[simp] theorem State.setDt_out (b : Byte) : (s.setDt b).out = s.out := rfl

/-! ### `setSt` -/

@[simp] theorem State.setSt_v (b : Byte) : (s.setSt b).v = s.v := rfl
@[simp] theorem State.setSt_iReg (b : Byte) : (s.setSt b).iReg = s.iReg := rfl
@[simp] theorem State.setSt_pc (b : Byte) : (s.setSt b).pc = s.pc := rfl
@[simp] theorem State.setSt_sp (b : Byte) : (s.setSt b).sp = s.sp := rfl
@[simp] theorem State.setSt_stack (b : Byte) : (s.setSt b).stack = s.stack := rfl
@[simp] theorem State.setSt_dt (b : Byte) : (s.setSt b).dt = s.dt := rfl
@[simp] theorem State.setSt_st (b : Byte) : (s.setSt b).st = b := rfl
@[simp] theorem State.setSt_keys (b : Byte) : (s.setSt b).keys = s.keys := rfl
@[simp] theorem State.setSt_fb (b : Byte) : (s.setSt b).fb = s.fb := rfl
@[simp] theorem State.setSt_mem (b : Byte) : (s.setSt b).mem = s.mem := rfl
@[simp] theorem State.setSt_cpuLoop (b : Byte) : (s.setSt b).cpuLoop = s.cpuLoop := rfl
@[simp] theorem State.setSt_timerLoop (b : Byte) : (s.setSt b).timerLoop = s.timerLoop := rfl
@[simp] theorem State.setSt_displayLoop (b : Byte) : (s.setSt b).displayLoop = s.displayLoop := rfl
@[simp] theorem State.setSt_fault (b : Byte) : (s.setSt b).fault = s.fault := rfl
@[simp] theorem State.setSt_unimpl (b : Byte) : (s.setSt b).unimpl = s.unimpl := rfl
@[simp] theorem State.setSt_params (b : Byte) : (s.setSt b).params = s.params := rfl
@[simp] theorem State.setSt_agenda (b : Byte) : (s.setSt b).agenda = s.agenda := rfl
@[simp] theorem State.setSt_rounds (b : Byte) : (s.setSt b).rounds = s.rounds := rfl
@[simp] theorem State.setSt_draws (b : Byte) : (s.setSt b).draws = s.draws := rfl
@[simp] theorem State.setSt_drawCount (b : Byte) : (s.setSt b).drawCount = s.drawCount := rfl
@[simp] theorem State.setSt_out (b : Byte) : (s.setSt b).out = s.out := rfl

/-! ### `setKeys` -/

@[simp] theorem State.setKeys_v (k : Word) : (s.setKeys k).v = s.v := rfl
@[simp] theorem State.setKeys_iReg (k : Word) : (s.setKeys k).iReg = s.iReg := rfl
@[simp] theorem State.setKeys_pc (k : Word) : (s.setKeys k).pc = s.pc := rfl
@[simp] theorem State.setKeys_sp (k : Word) : (s.setKeys k).sp = s.sp := rfl
@[simp] theorem State.setKeys_stack (k : Word) : (s.setKeys k).stack = s.stack := rfl
@[simp] theorem State.setKeys_dt (k : Word) : (s.setKeys k).dt = s.dt := rfl
@[simp] theorem State.setKeys_st (k : Word) : (s.setKeys k).st = s.st := rfl
@[simp] theorem State.setKeys_keys (k : Word) : (s.setKeys k).keys = k := rfl
@[simp] theorem State.setKeys_fb (k : Word) : (s.setKeys k).fb = s.fb := rfl
@[simp] theorem State.setKeys_mem (k : Word) : (s.setKeys k).mem = s.mem := rfl
@[simp] theorem State.setKeys_cpuLoop (k : Word) : (s.setKeys k).cpuLoop = s.cpuLoop := rfl
@[simp] theorem State.setKeys_timerLoop (k : Word) : (s.setKeys k).timerLoop = s.timerLoop := rfl
@[simp] theorem State.setKeys_displayLoop (k : Word) : (s.setKeys k).displayLoop = s.displayLoop := rfl
@[simp] theorem State.setKeys_fault (k : Word) : (s.setKeys k).fault = s.fault := rfl
@[simp] theorem State.setKeys_unimpl (k : Word) : (s.setKeys k).unimpl = s.unimpl := rfl
@[simp] theorem State.setKeys_params (k : Word) : (s.setKeys k).params = s.params := rfl
@[simp] theorem State.setKeys_agenda (k : Word) : (s.setKeys k).agenda = s.agenda := rfl
@[simp] theorem State.setKeys_rounds (k : Word) : (s.setKeys k).rounds = s.rounds := rfl
@[simp] theorem State.setKeys_draws (k : Word) : (s.setKeys k).draws = s.draws := rfl
@[simp] theorem State.setKeys_drawCount (k : Word) : (s.setKeys k).drawCount = s.drawCount := rfl
@[simp] theorem State.setKeys_out (k : Word) : (s.setKeys k).out = s.out := rfl

/-! ### `setSp` -/

@[simp] theorem State.setSp_v (j : Byte) : (s.setSp j).v = s.v := rfl
@[simp] theorem State.setSp_iReg (j : Byte) : (s.setSp j).iReg = s.iReg := rfl
@[simp] theorem State.setSp_pc (j : Byte) : (s.setSp j).pc = s.pc := rfl
@[simp] theorem State.setSp_sp (j : Byte) : (s.setSp j).sp = j := rfl
@[simp] theorem State.setSp_stack (j : Byte) : (s.setSp j).stack = s.stack := rfl
@[simp] theorem State.setSp_dt (j : Byte) : (s.setSp j).dt = s.dt := rfl
@[simp] theorem State.setSp_st (j : Byte) : (s.setSp j).st = s.st := rfl
@[simp] theorem State.setSp_keys (j : Byte) : (s.setSp j).keys = s.keys := rfl
@[simp] theorem State.setSp_fb (j : Byte) : (s.setSp j).fb = s.fb := rfl
@[simp] theorem State.setSp_mem (j : Byte) : (s.setSp j).mem = s.mem := rfl
@[simp] theorem State.setSp_cpuLoop (j : Byte) : (s.setSp j).cpuLoop = s.cpuLoop := rfl
@[simp] theorem State.setSp_timerLoop (j : Byte) : (s.setSp j).timerLoop = s.timerLoop := rfl
@[simp] theorem State.setSp_displayLoop (j : Byte) : (s.setSp j).displayLoop = s.displayLoop := rfl
@[simp] theorem State.setSp_fault (j : Byte) : (s.setSp j).fault = s.fault := rfl
@[simp] theorem State.setSp_unimpl (j : Byte) : (s.setSp j).unimpl = s.unimpl := rfl
@[simp] theorem State.setSp_params (j : Byte) : (s.setSp j).params = s.params := rfl
@[simp] theorem State.setSp_agenda (j : Byte) : (s.setSp j).agenda = s.agenda := rfl
@[simp] theorem State.setSp_rounds (j : Byte) : (s.setSp j).rounds = s.rounds := rfl
@[simp] theorem State.setSp_draws (j : Byte) : (s.setSp j).draws = s.draws := rfl
@[simp] theorem State.setSp_drawCount (j : Byte) : (s.setSp j).drawCount = s.drawCount := rfl
@[simp] theorem State.setSp_out (j : Byte) : (s.setSp j).out = s.out := rfl

/-! ### `pushAt` -/

@[simp] theorem State.pushAt_v (j : Byte) (a : Word) : (s.pushAt j a).v = s.v := rfl
@[simp] theorem State.pushAt_iReg (j : Byte) (a : Word) : (s.pushAt j a).iReg = s.iReg := rfl
@[simp] theorem State.pushAt_pc (j : Byte) (a : Word) : (s.pushAt j a).pc = s.pc := rfl
@[simp] theorem State.pushAt_sp (j : Byte) (a : Word) : (s.pushAt j a).sp = j := rfl
@[simp] theorem State.pushAt_stack (j : Byte) (a : Word) : (s.pushAt j a).stack = s.stack.setIfInBounds j.toNat a := rfl
@[simp] theorem State.pushAt_dt (j : Byte) (a : Word) : (s.pushAt j a).dt = s.dt := rfl
@[simp] theorem State.pushAt_st (j : Byte) (a : Word) : (s.pushAt j a).st = s.st := rfl
@[simp] theorem State.pushAt_keys (j : Byte) (a : Word) : (s.pushAt j a).keys = s.keys := rfl
@[simp] theorem State.pushAt_fb (j : Byte) (a : Word) : (s.pushAt j a).fb = s.fb := rfl
@[simp] theorem State.pushAt_mem (j : Byte) (a : Word) : (s.pushAt j a).mem = s.mem := rfl
@[simp] theorem State.pushAt_cpuLoop (j : Byte) (a : Word) : (s.pushAt j a).cpuLoop = s.cpuLoop := rfl
@[simp] theorem State.pushAt_timerLoop (j : Byte) (a : Word) : (s.pushAt j a).timerLoop = s.timerLoop := rfl
@[simp] theorem State.pushAt_displayLoop (j : Byte) (a : Word) : (s.pushAt j a).displayLoop = s.displayLoop := rfl
@[simp] theorem State.pushAt_fault (j : Byte) (a : Word) : (s.pushAt j a).fault = s.fault := rfl
@[simp] theorem State.pushAt_unimpl (j : Byte) (a : Word) : (s.pushAt j a).unimpl = s.unimpl := rfl
@[simp] theorem State.pushAt_params (j : Byte) (a : Word) : (s.pushAt j a).params = s.params := rfl
@[simp] theorem State.pushAt_agenda (j : Byte) (a : Word) : (s.pushAt j a).agenda = s.agenda := rfl
@[simp] theorem State.pushAt_rounds (j : Byte) (a : Word) : (s.pushAt j a).rounds = s.rounds := rfl
@[simp] theorem State.pushAt_draws (j : Byte) (a : Word) : (s.pushAt j a).draws = s.draws := rfl
@[simp] theorem State.pushAt_drawCount (j : Byte) (a : Word) : (s.pushAt j a).drawCount = s.drawCount := rfl
@[simp] theorem State.pushAt_out (j : Byte) (a : Word) : (s.pushAt j a).out = s.out := rfl

/-! ### `storeBytes` -/

@[simp] theorem State.storeBytes_v (a : Nat) (bs : List Byte) : (s.storeBytes a bs).v = s.v := rfl
@[simp] theorem State.storeBytes_iReg (a : Nat) (bs : List Byte) : (s.storeBytes a bs).iReg = s.iReg := rfl
@[simp] theorem State.storeBytes_pc (a : Nat) (bs : List Byte) : (s.storeBytes a bs).pc = s.pc := rfl
@[simp] theorem State.storeBytes_sp (a : Nat) (bs : List Byte) : (s.storeBytes a bs).sp = s.sp := rfl
@[simp] theorem State.storeBytes_stack (a : Nat) (bs : List Byte) : (s.storeBytes a bs).stack = s.stack := rfl
@[simp] theorem State.storeBytes_dt (a : Nat) (bs : List Byte) : (s.storeBytes a bs).dt = s.dt := rfl
@[simp] theorem State.storeBytes_st (a : Nat) (bs : List Byte) : (s.storeBytes a bs).st = s.st := rfl
@[simp] theorem State.storeBytes_keys (a : Nat) (bs : List Byte) : (s.storeBytes a bs).keys = s.keys := rfl
@[simp] theorem State.storeBytes_fb (a : Nat) (bs : List Byte) : (s.storeBytes a bs).fb = s.fb := rfl
@[simp] theorem State.storeBytes_mem (a : Nat) (bs : List Byte) : (s.storeBytes a bs).mem = Memory.writeMany s.params.font s.mem a bs := rfl
@[simp] theorem State.storeBytes_cpuLoop (a : Nat) (bs : List Byte) : (s.storeBytes a bs).cpuLoop = s.cpuLoop := rfl
@[simp] theorem State.storeBytes_timerLoop (a : Nat) (bs : List Byte) : (s.storeBytes a bs).timerLoop = s.timerLoop := rfl
@[simp] theorem State.storeBytes_displayLoop (a : Nat) (bs : List Byte) : (s.storeBytes a bs).displayLoop = s.displayLoop := rfl
@[simp] theorem State.storeBytes_fault (a : Nat) (bs : List Byte) : (s.storeBytes a bs).fault = s.fault := rfl
@[simp] theorem State.storeBytes_unimpl (a : Nat) (bs : List Byte) : (s.storeBytes a bs).unimpl = s.unimpl := rfl
@[simp] theorem State.storeBytes_params (a : Nat) (bs : List Byte) : (s.storeBytes a bs).params = s.params := rfl
@[simp] theorem State.storeBytes_agenda (a : Nat) (bs : List Byte) : (s.storeBytes a bs).agenda = s.agenda := rfl
@[simp] theorem State.storeBytes_rounds (a : Nat) (bs : List Byte) : (s.storeBytes a bs).rounds = s.rounds := rfl
@[simp] theorem State.storeBytes_draws (a : Nat) (bs : List Byte) : (s.storeBytes a bs).draws = s.draws := rfl
@[simp] theorem State.storeBytes_drawCount (a : Nat) (bs : List Byte) : (s.storeBytes a bs).drawCount = s.drawCount := rfl
@[simp] theorem State.storeBytes_out (a : Nat) (bs : List Byte) : (s.storeBytes a bs).out = s.out := rfl

/-! ### `setFb` -/

@[simp] theorem State.setFb_v (f : Framebuffer) : (s.setFb f).v = s.v := rfl
@[simp] theorem State.setFb_iReg (f : Framebuffer) : (s.setFb f).iReg = s.iReg := rfl
@[simp] theorem State.setFb_pc (f : Framebuffer) : (s.setFb f).pc = s.pc := rfl
@[simp] theorem State.setFb_sp (f : Framebuffer) : (s.setFb f).sp = s.sp := rfl
@[simp] theorem State.setFb_stack (f : Framebuffer) : (s.setFb f).stack = s.stack := rfl
@[simp] theorem State.setFb_dt (f : Framebuffer) : (s.setFb f).dt = s.dt := rfl
@[simp] theorem State.setFb_st (f : Framebuffer) : (s.setFb f).st = s.st := rfl
@[simp] theorem State.setFb_keys (f : Framebuffer) : (s.setFb f).keys = s.keys := rfl
@[simp] theorem State.setFb_fb (f : Framebuffer) : (s.setFb f).fb = f := rfl
@[simp] theorem State.setFb_mem (f : Framebuffer) : (s.setFb f).mem = s.mem := rfl
@[simp] theorem State.setFb_cpuLoop (f : Framebuffer) : (s.setFb f).cpuLoop = s.cpuLoop := rfl
@[simp] theorem State.setFb_timerLoop (f : Framebuffer) : (s.setFb f).timerLoop = s.timerLoop := rfl
@[simp] theorem State.setFb_displayLoop (f : Framebuffer) : (s.setFb f).displayLoop = s.displayLoop := rfl
@[simp] theorem State.setFb_fault (f : Framebuffer) : (s.setFb f).fault = s.fault := rfl
@[simp] theorem State.setFb_unimpl (f : Framebuffer) : (s.setFb f).unimpl = s.unimpl := rfl
@[simp] theorem State.setFb_params (f : Framebuffer) : (s.setFb f).params = s.params := rfl
@[simp] theorem State.setFb_agenda (f : Framebuffer) : (s.setFb f).agenda = s.agenda := rfl
@[simp] theorem State.setFb_rounds (f : Framebuffer) : (s.setFb f).rounds = s.rounds := rfl
@[simp] theorem State.setFb_draws (f : Framebuffer) : (s.setFb f).draws = s.draws := rfl
@[simp] theorem State.setFb_drawCount (f : Framebuffer) : (s.setFb f).drawCount = s.drawCount := rfl
@[simp] theorem State.setFb_out (f : Framebuffer) : (s.setFb f).out = s.out := rfl

/-! ### `advance` -/

@[simp] theorem State.advance_v : (s.advance).v = s.v := rfl
@[simp] theorem State.advance_iReg : (s.advance).iReg = s.iReg := rfl
@[simp] theorem State.advance_pc : (s.advance).pc = s.pc + 2 := rfl
@[simp] theorem State.advance_sp : (s.advance).sp = s.sp := rfl
@[simp] theorem State.advance_stack : (s.advance).stack = s.stack := rfl
@[simp] theorem State.advance_dt : (s.advance).dt = s.dt := rfl
@[simp] theorem State.advance_st : (s.advance).st = s.st := rfl
@[simp] theorem State.advance_keys : (s.advance).keys = s.keys := rfl
@[simp] theorem State.advance_fb : (s.advance).fb = s.fb := rfl
@[simp] theorem State.advance_mem : (s.advance).mem = s.mem := rfl
@[simp] theorem State.advance_cpuLoop : (s.advance).cpuLoop = s.cpuLoop := rfl
@[simp] theorem State.advance_timerLoop : (s.advance).timerLoop = s.timerLoop := rfl
@[simp] theorem State.advance_displayLoop : (s.advance).displayLoop = s.displayLoop := rfl
@[simp] theorem State.advance_fault : (s.advance).fault = s.fault := rfl
@[simp] theorem State.advance_unimpl : (s.advance).unimpl = s.unimpl := rfl
@[simp] theorem State.advance_params : (s.advance).params = s.params := rfl
@[simp] theorem State.advance_agenda : (s.advance).agenda = s.agenda := rfl
@[simp] theorem State.advance_rounds : (s.advance).rounds = s.rounds := rfl
@[simp] theorem State.advance_draws : (s.advance).draws = s.draws := rfl
@[simp] theorem State.advance_drawCount : (s.advance).drawCount = s.drawCount := rfl
@[simp] theorem State.advance_out : (s.advance).out = s.out := rfl

/-! ### `skipIf` -/

@[simp] theorem State.skipIf_v (c : Bool) : (s.skipIf c).v = s.v := rfl
@[simp] theorem State.skipIf_iReg (c : Bool) : (s.skipIf c).iReg = s.iReg := rfl
@[simp] theorem State.skipIf_pc (c : Bool) : (s.skipIf c).pc = if c then s.pc + 4 else s.pc + 2 := rfl
@[simp] theorem State.skipIf_sp (c : Bool) : (s.skipIf c).sp = s.sp := rfl
@[simp] theorem State.skipIf_stack (c : Bool) : (s.skipIf c).stack = s.stack := rfl
@[simp] theorem State.skipIf_dt (c : Bool) : (s.skipIf c).dt = s.dt := rfl
@[simp] theorem State.skipIf_st (c : Bool) : (s.skipIf c).st = s.st := rfl
@[simp] theorem State.skipIf_keys (c : Bool) : (s.skipIf c).keys = s.keys := rfl
@[simp] theorem State.skipIf_fb (c : Bool) : (s.skipIf c).fb = s.fb := rfl
@[simp] theorem State.skipIf_mem (c : Bool) : (s.skipIf c).mem = s.mem := rfl
@[simp] theorem State.skipIf_cpuLoop (c : Bool) : (s.skipIf c).cpuLoop = s.cpuLoop := rfl
@[simp] theorem State.skipIf_timerLoop (c : Bool) : (s.skipIf c).timerLoop = s.timerLoop := rfl
@[simp] theorem State.skipIf_displayLoop (c : Bool) : (s.skipIf c).displayLoop = s.displayLoop := rfl
@[simp] theorem State.skipIf_fault (c : Bool) : (s.skipIf c).fault = s.fault := rfl
@[simp] theorem State.skipIf_unimpl (c : Bool) : (s.skipIf c).unimpl = s.unimpl := rfl
@[simp] theorem State.skipIf_params (c : Bool) : (s.skipIf c).params = s.params := rfl
@[simp] theorem State.skipIf_agenda (c : Bool) : (s.skipIf c).agenda = s.agenda := rfl
@[simp] theorem State.skipIf_rounds (c : Bool) : (s.skipIf c).rounds = s.rounds := rfl
@[simp] theorem State.skipIf_draws (c : Bool) : (s.skipIf c).draws = s.draws := rfl
@[simp] theorem State.skipIf_drawCount (c : Bool) : (s.skipIf c).drawCount = s.drawCount := rfl
@[simp] theorem State.skipIf_out (c : Bool) : (s.skipIf c).out = s.out := rfl

/-! ### `setResultFlag` -/

@[simp] theorem State.setResultFlag_v (x : Nibble) (r : Byte) (c : Bool) : (s.setResultFlag x r c).v = (s.v.set x.toNat r).set vf.toNat (flagByte c) := rfl
@[simp] theorem State.setResultFlag_iReg (x : Nibble) (r : Byte) (c : Bool) : (s.setResultFlag x r c).iReg = s.iReg := rfl
@[simp] theorem State.setResultFlag_pc (x : Nibble) (r : Byte) (c : Bool) : (s.setResultFlag x r c).pc = s.pc := rfl
@[simp] theorem State.setResultFlag_sp (x : Nibble) (r : Byte) (c : Bool) : (s.setResultFlag x r c).sp = s.sp := rfl
@[simp] theorem State.setResultFlag_stack (x : Nibble) (r : Byte) (c : Bool) : (s.setResultFlag x r c).stack = s.stack := rfl
@[simp] theorem State.setResultFlag_dt (x : Nibble) (r : Byte) (c : Bool) : (s.setResultFlag x r c).dt = s.dt := rfl
@[simp] theorem State.setResultFlag_st (x : Nibble) (r : Byte) (c : Bool) : (s.setResultFlag x r c).st = s.st := rfl
@[simp] theorem State.setResultFlag_keys (x : Nibble) (r : Byte) (c : Bool) : (s.setResultFlag x r c).keys = s.keys := rfl
@[simp] theorem State.setResultFlag_fb (x : Nibble) (r : Byte) (c : Bool) : (s.setResultFlag x r c).fb = s.fb := rfl
@[simp] theorem State.setResultFlag_mem (x : Nibble) (r : Byte) (c : Bool) : (s.setResultFlag x r c).mem = s.mem := rfl
@[simp] theorem State.setResultFlag_cpuLoop (x : Nibble) (r : Byte) (c : Bool) : (s.setResultFlag x r c).cpuLoop = s.cpuLoop := rfl
@[simp] theorem State.setResultFlag_timerLoop (x : Nibble) (r : Byte) (c : Bool) : (s.setResultFlag x r c).timerLoop = s.timerLoop := rfl
@[simp] theorem State.setResultFlag_displayLoop (x : Nibble) (r : Byte) (c : Bool) : (s.setResultFlag x r c).displayLoop = s.displayLoop := rfl
@[simp] theorem State.setResultFlag_fault (x : Nibble) (r : Byte) (c : Bool) : (s.setResultFlag x r c).fault = s.fault := rfl
@[simp] theorem State.setResultFlag_unimpl (x : Nibble) (r : Byte) (c : Bool) : (s.setResultFlag x r c).unimpl = s.unimpl := rfl
@[simp] theorem State.setResultFlag_params (x : Nibble) (r : Byte) (c : Bool) : (s.setResultFlag x r c).params = s.params := rfl
@[simp] theorem State.setResultFlag_agenda (x : Nibble) (r : Byte) (c : Bool) : (s.setResultFlag x r c).agenda = s.agenda := rfl
@[simp] theorem State.setResultFlag_rounds (x : Nibble) (r : Byte) (c : Bool) : (s.setResultFlag x r c).rounds = s.rounds := rfl
@[simp] theorem State.setResultFlag_draws (x : Nibble) (r : Byte) (c : Bool) : (s.setResultFlag x r c).draws = s.draws := rfl
@[simp] theorem State.setResultFlag_drawCount (x : Nibble) (r : Byte) (c : Bool) : (s.setResultFlag x r c).drawCount = s.drawCount := rfl
@[simp] theorem State.setResultFlag_out (x : Nibble) (r : Byte) (c : Bool) : (s.setResultFlag x r c).out = s.out := rfl

/-! ### `emit` -/

@[simp] theorem State.emit_v (o : Output) : (s.emit o).v = s.v := rfl
@[simp] theorem State.emit_iReg (o : Output) : (s.emit o).iReg = s.iReg := rfl
@[simp] theorem State.emit_pc (o : Output) : (s.emit o).pc = s.pc := rfl
@[simp] theorem State.emit_sp (o : Output) : (s.emit o).sp = s.sp := rfl
@[simp] theorem State.emit_stack (o : Output) : (s.emit o).stack = s.stack := rfl
@[simp] theorem State.emit_dt (o : Output) : (s.emit o).dt = s.dt := rfl
@[simp] theorem State.emit_st (o : Output) : (s.emit o).st = s.st := rfl
@[simp] theorem State.emit_keys (o : Output) : (s.emit o).keys = s.keys := rfl
@[simp] theorem State.emit_fb (o : Output) : (s.emit o).fb = s.fb := rfl
@[simp] theorem State.emit_mem (o : Output) : (s.emit o).mem = s.mem := rfl
@[simp] theorem State.emit_cpuLoop (o : Output) : (s.emit o).cpuLoop = s.cpuLoop := rfl
@[simp] theorem State.emit_timerLoop (o : Output) : (s.emit o).timerLoop = s.timerLoop := rfl
@[simp] theorem State.emit_displayLoop (o : Output) : (s.emit o).displayLoop = s.displayLoop := rfl
@[simp] theorem State.emit_fault (o : Output) : (s.emit o).fault = s.fault := rfl
@[simp] theorem State.emit_unimpl (o : Output) : (s.emit o).unimpl = s.unimpl := rfl
@[simp] theorem State.emit_params (o : Output) : (s.emit o).params = s.params := rfl
@[simp] theorem State.emit_agenda (o : Output) : (s.emit o).agenda = s.agenda := rfl
@[simp] theorem State.emit_rounds (o : Output) : (s.emit o).rounds = s.rounds := rfl
@[simp] theorem State.emit_draws (o : Output) : (s.emit o).draws = s.draws := rfl
@[simp] theorem State.emit_drawCount (o : Output) : (s.emit o).drawCount = s.drawCount := rfl
@[simp] theorem State.emit_out (o : Output) : (s.emit o).out = o :: s.out := rfl

/-! ### Fault entry -/

@[simp] theorem takeFault_v (r : Raise) : (takeFault r s).v = s.v := rfl
@[simp] theorem takeFault_iReg (r : Raise) : (takeFault r s).iReg = s.iReg := rfl
@[simp] theorem takeFault_pc (r : Raise) : (takeFault r s).pc = s.pc := rfl
@[simp] theorem takeFault_sp (r : Raise) : (takeFault r s).sp = s.sp := rfl
@[simp] theorem takeFault_stack (r : Raise) : (takeFault r s).stack = s.stack := rfl
@[simp] theorem takeFault_dt (r : Raise) : (takeFault r s).dt = s.dt := rfl
@[simp] theorem takeFault_st (r : Raise) : (takeFault r s).st = s.st := rfl
@[simp] theorem takeFault_keys (r : Raise) : (takeFault r s).keys = s.keys := rfl
@[simp] theorem takeFault_fb (r : Raise) : (takeFault r s).fb = s.fb := rfl
@[simp] theorem takeFault_mem (r : Raise) : (takeFault r s).mem = s.mem := rfl
@[simp] theorem takeFault_cpuLoop (r : Raise) : (takeFault r s).cpuLoop = { s.cpuLoop with run := .stopped } := rfl
@[simp] theorem takeFault_timerLoop (r : Raise) : (takeFault r s).timerLoop = s.timerLoop := rfl
@[simp] theorem takeFault_displayLoop (r : Raise) : (takeFault r s).displayLoop = s.displayLoop := rfl
@[simp] theorem takeFault_fault (r : Raise) : (takeFault r s).fault = { cause := r.cause.code, pc := s.pc, info := r.info } := rfl
@[simp] theorem takeFault_unimpl (r : Raise) : (takeFault r s).unimpl = s.unimpl := rfl
@[simp] theorem takeFault_params (r : Raise) : (takeFault r s).params = s.params := rfl
@[simp] theorem takeFault_agenda (r : Raise) : (takeFault r s).agenda = s.agenda := rfl
@[simp] theorem takeFault_rounds (r : Raise) : (takeFault r s).rounds = s.rounds := rfl
@[simp] theorem takeFault_draws (r : Raise) : (takeFault r s).draws = s.draws := rfl
@[simp] theorem takeFault_drawCount (r : Raise) : (takeFault r s).drawCount = s.drawCount := rfl
@[simp] theorem takeFault_out (r : Raise) : (takeFault r s).out = .faultReport r.cause.code s.pc r.info :: s.out := rfl

/-! ### The trace: only `out` may change -/

@[simp] theorem State.emitTrace_v (p w : Word) : (s.emitTrace p w).v = s.v := by
  unfold State.emitTrace; split <;> rfl
@[simp] theorem State.emitTrace_iReg (p w : Word) : (s.emitTrace p w).iReg = s.iReg := by
  unfold State.emitTrace; split <;> rfl
@[simp] theorem State.emitTrace_pc (p w : Word) : (s.emitTrace p w).pc = s.pc := by
  unfold State.emitTrace; split <;> rfl
@[simp] theorem State.emitTrace_sp (p w : Word) : (s.emitTrace p w).sp = s.sp := by
  unfold State.emitTrace; split <;> rfl
@[simp] theorem State.emitTrace_stack (p w : Word) : (s.emitTrace p w).stack = s.stack := by
  unfold State.emitTrace; split <;> rfl
@[simp] theorem State.emitTrace_dt (p w : Word) : (s.emitTrace p w).dt = s.dt := by
  unfold State.emitTrace; split <;> rfl
@[simp] theorem State.emitTrace_st (p w : Word) : (s.emitTrace p w).st = s.st := by
  unfold State.emitTrace; split <;> rfl
@[simp] theorem State.emitTrace_keys (p w : Word) : (s.emitTrace p w).keys = s.keys := by
  unfold State.emitTrace; split <;> rfl
@[simp] theorem State.emitTrace_fb (p w : Word) : (s.emitTrace p w).fb = s.fb := by
  unfold State.emitTrace; split <;> rfl
@[simp] theorem State.emitTrace_mem (p w : Word) : (s.emitTrace p w).mem = s.mem := by
  unfold State.emitTrace; split <;> rfl
@[simp] theorem State.emitTrace_cpuLoop (p w : Word) : (s.emitTrace p w).cpuLoop = s.cpuLoop := by
  unfold State.emitTrace; split <;> rfl
@[simp] theorem State.emitTrace_timerLoop (p w : Word) : (s.emitTrace p w).timerLoop = s.timerLoop := by
  unfold State.emitTrace; split <;> rfl
@[simp] theorem State.emitTrace_displayLoop (p w : Word) : (s.emitTrace p w).displayLoop = s.displayLoop := by
  unfold State.emitTrace; split <;> rfl
@[simp] theorem State.emitTrace_fault (p w : Word) : (s.emitTrace p w).fault = s.fault := by
  unfold State.emitTrace; split <;> rfl
@[simp] theorem State.emitTrace_unimpl (p w : Word) : (s.emitTrace p w).unimpl = s.unimpl := by
  unfold State.emitTrace; split <;> rfl
@[simp] theorem State.emitTrace_params (p w : Word) : (s.emitTrace p w).params = s.params := by
  unfold State.emitTrace; split <;> rfl
@[simp] theorem State.emitTrace_agenda (p w : Word) : (s.emitTrace p w).agenda = s.agenda := by
  unfold State.emitTrace; split <;> rfl
@[simp] theorem State.emitTrace_rounds (p w : Word) : (s.emitTrace p w).rounds = s.rounds := by
  unfold State.emitTrace; split <;> rfl
@[simp] theorem State.emitTrace_draws (p w : Word) : (s.emitTrace p w).draws = s.draws := by
  unfold State.emitTrace; split <;> rfl
@[simp] theorem State.emitTrace_drawCount (p w : Word) : (s.emitTrace p w).drawCount = s.drawCount := by
  unfold State.emitTrace; split <;> rfl
@[simp] theorem State.emitTrace_out (p w : Word) :
    (s.emitTrace p w).out = if s.params.traceEnable then .trace p w :: s.out else s.out := by
  unfold State.emitTrace; split <;> rfl

/-! ### Using up a draw: only `draws` and `drawCount` may change -/

@[simp] theorem State.dropDraw_v : s.dropDraw.v = s.v := by
  unfold State.dropDraw; split <;> rfl
@[simp] theorem State.dropDraw_iReg : s.dropDraw.iReg = s.iReg := by
  unfold State.dropDraw; split <;> rfl
@[simp] theorem State.dropDraw_pc : s.dropDraw.pc = s.pc := by
  unfold State.dropDraw; split <;> rfl
@[simp] theorem State.dropDraw_sp : s.dropDraw.sp = s.sp := by
  unfold State.dropDraw; split <;> rfl
@[simp] theorem State.dropDraw_stack : s.dropDraw.stack = s.stack := by
  unfold State.dropDraw; split <;> rfl
@[simp] theorem State.dropDraw_dt : s.dropDraw.dt = s.dt := by
  unfold State.dropDraw; split <;> rfl
@[simp] theorem State.dropDraw_st : s.dropDraw.st = s.st := by
  unfold State.dropDraw; split <;> rfl
@[simp] theorem State.dropDraw_keys : s.dropDraw.keys = s.keys := by
  unfold State.dropDraw; split <;> rfl
@[simp] theorem State.dropDraw_fb : s.dropDraw.fb = s.fb := by
  unfold State.dropDraw; split <;> rfl
@[simp] theorem State.dropDraw_mem : s.dropDraw.mem = s.mem := by
  unfold State.dropDraw; split <;> rfl
@[simp] theorem State.dropDraw_cpuLoop : s.dropDraw.cpuLoop = s.cpuLoop := by
  unfold State.dropDraw; split <;> rfl
@[simp] theorem State.dropDraw_timerLoop : s.dropDraw.timerLoop = s.timerLoop := by
  unfold State.dropDraw; split <;> rfl
@[simp] theorem State.dropDraw_displayLoop : s.dropDraw.displayLoop = s.displayLoop := by
  unfold State.dropDraw; split <;> rfl
@[simp] theorem State.dropDraw_fault : s.dropDraw.fault = s.fault := by
  unfold State.dropDraw; split <;> rfl
@[simp] theorem State.dropDraw_unimpl : s.dropDraw.unimpl = s.unimpl := by
  unfold State.dropDraw; split <;> rfl
@[simp] theorem State.dropDraw_params : s.dropDraw.params = s.params := by
  unfold State.dropDraw; split <;> rfl
@[simp] theorem State.dropDraw_agenda : s.dropDraw.agenda = s.agenda := by
  unfold State.dropDraw; split <;> rfl
@[simp] theorem State.dropDraw_rounds : s.dropDraw.rounds = s.rounds := by
  unfold State.dropDraw; split <;> rfl
@[simp] theorem State.dropDraw_out : s.dropDraw.out = s.out := by
  unfold State.dropDraw; split <;> rfl

theorem State.nextDraw_supplied {b : Byte} {bs : List Byte} (h : s.draws = b :: bs) :
    s.nextDraw = b ∧ s.dropDraw.draws = bs ∧ s.dropDraw.drawCount = s.drawCount := by
  simp [State.nextDraw, State.dropDraw, h]

theorem State.nextDraw_free (h : s.draws = []) :
    s.nextDraw = Config.randomByte s.drawCount ∧ s.dropDraw.draws = [] ∧
      s.dropDraw.drawCount = s.drawCount + 1 := by
  simp [State.nextDraw, State.dropDraw, h]

/-! ### Loops -/

@[simp] theorem State.setLoop_v (l : Loop) (ls : LoopState) : (s.setLoop l ls).v = s.v := by
  cases l <;> rfl
@[simp] theorem State.setLoop_iReg (l : Loop) (ls : LoopState) : (s.setLoop l ls).iReg = s.iReg := by
  cases l <;> rfl
@[simp] theorem State.setLoop_pc (l : Loop) (ls : LoopState) : (s.setLoop l ls).pc = s.pc := by
  cases l <;> rfl
@[simp] theorem State.setLoop_sp (l : Loop) (ls : LoopState) : (s.setLoop l ls).sp = s.sp := by
  cases l <;> rfl
@[simp] theorem State.setLoop_stack (l : Loop) (ls : LoopState) : (s.setLoop l ls).stack = s.stack := by
  cases l <;> rfl
@[simp] theorem State.setLoop_dt (l : Loop) (ls : LoopState) : (s.setLoop l ls).dt = s.dt := by
  cases l <;> rfl
@[simp] theorem State.setLoop_st (l : Loop) (ls : LoopState) : (s.setLoop l ls).st = s.st := by
  cases l <;> rfl
@[simp] theorem State.setLoop_keys (l : Loop) (ls : LoopState) : (s.setLoop l ls).keys = s.keys := by
  cases l <;> rfl
@[simp] theorem State.setLoop_fb (l : Loop) (ls : LoopState) : (s.setLoop l ls).fb = s.fb := by
  cases l <;> rfl
@[simp] theorem State.setLoop_mem (l : Loop) (ls : LoopState) : (s.setLoop l ls).mem = s.mem := by
  cases l <;> rfl
@[simp] theorem State.setLoop_fault (l : Loop) (ls : LoopState) : (s.setLoop l ls).fault = s.fault := by
  cases l <;> rfl
@[simp] theorem State.setLoop_unimpl (l : Loop) (ls : LoopState) : (s.setLoop l ls).unimpl = s.unimpl := by
  cases l <;> rfl
@[simp] theorem State.setLoop_params (l : Loop) (ls : LoopState) : (s.setLoop l ls).params = s.params := by
  cases l <;> rfl
@[simp] theorem State.setLoop_agenda (l : Loop) (ls : LoopState) : (s.setLoop l ls).agenda = s.agenda := by
  cases l <;> rfl
@[simp] theorem State.setLoop_rounds (l : Loop) (ls : LoopState) : (s.setLoop l ls).rounds = s.rounds := by
  cases l <;> rfl
@[simp] theorem State.setLoop_draws (l : Loop) (ls : LoopState) : (s.setLoop l ls).draws = s.draws := by
  cases l <;> rfl
@[simp] theorem State.setLoop_drawCount (l : Loop) (ls : LoopState) : (s.setLoop l ls).drawCount = s.drawCount := by
  cases l <;> rfl
@[simp] theorem State.setLoop_out (l : Loop) (ls : LoopState) : (s.setLoop l ls).out = s.out := by
  cases l <;> rfl

@[simp] theorem State.loop_setLoop_same (l : Loop) (ls : LoopState) : (s.setLoop l ls).loop l = ls := by
  cases l <;> rfl

theorem State.loop_setLoop_other {l l' : Loop} (h : l' ≠ l) (ls : LoopState) :
    (s.setLoop l ls).loop l' = s.loop l' := by
  cases l <;> cases l' <;> first | rfl | exact absurd rfl h

/-! ### Accessors see through the updates that do not concern them -/

@[simp] theorem State.setReg_byteAt (x : Nibble) (b : Byte) (i : Nat) : (s.setReg x b).byteAt i = s.byteAt i := rfl
@[simp] theorem State.setI_reg (a : Word) (idx : Nibble) : (s.setI a).reg idx = s.reg idx := rfl
@[simp] theorem State.setI_byteAt (a : Word) (i : Nat) : (s.setI a).byteAt i = s.byteAt i := rfl
@[simp] theorem State.setPc_reg (a : Word) (idx : Nibble) : (s.setPc a).reg idx = s.reg idx := rfl
@[simp] theorem State.setPc_byteAt (a : Word) (i : Nat) : (s.setPc a).byteAt i = s.byteAt i := rfl
@[simp] theorem State.setDt_reg (b : Byte) (idx : Nibble) : (s.setDt b).reg idx = s.reg idx := rfl
@[simp] theorem State.setDt_byteAt (b : Byte) (i : Nat) : (s.setDt b).byteAt i = s.byteAt i := rfl
@[simp] theorem State.setSt_reg (b : Byte) (idx : Nibble) : (s.setSt b).reg idx = s.reg idx := rfl
@[simp] theorem State.setSt_byteAt (b : Byte) (i : Nat) : (s.setSt b).byteAt i = s.byteAt i := rfl
@[simp] theorem State.setKeys_reg (k : Word) (idx : Nibble) : (s.setKeys k).reg idx = s.reg idx := rfl
@[simp] theorem State.setKeys_byteAt (k : Word) (i : Nat) : (s.setKeys k).byteAt i = s.byteAt i := rfl
@[simp] theorem State.setSp_reg (j : Byte) (idx : Nibble) : (s.setSp j).reg idx = s.reg idx := rfl
@[simp] theorem State.setSp_byteAt (j : Byte) (i : Nat) : (s.setSp j).byteAt i = s.byteAt i := rfl
@[simp] theorem State.pushAt_reg (j : Byte) (a : Word) (idx : Nibble) : (s.pushAt j a).reg idx = s.reg idx := rfl
@[simp] theorem State.pushAt_byteAt (j : Byte) (a : Word) (i : Nat) : (s.pushAt j a).byteAt i = s.byteAt i := rfl
@[simp] theorem State.storeBytes_reg (a : Nat) (bs : List Byte) (idx : Nibble) : (s.storeBytes a bs).reg idx = s.reg idx := rfl
@[simp] theorem State.setFb_reg (f : Framebuffer) (idx : Nibble) : (s.setFb f).reg idx = s.reg idx := rfl
@[simp] theorem State.setFb_byteAt (f : Framebuffer) (i : Nat) : (s.setFb f).byteAt i = s.byteAt i := rfl
@[simp] theorem State.advance_reg (idx : Nibble) : (s.advance).reg idx = s.reg idx := rfl
@[simp] theorem State.advance_byteAt (i : Nat) : (s.advance).byteAt i = s.byteAt i := rfl
@[simp] theorem State.skipIf_reg (c : Bool) (idx : Nibble) : (s.skipIf c).reg idx = s.reg idx := rfl
@[simp] theorem State.skipIf_byteAt (c : Bool) (i : Nat) : (s.skipIf c).byteAt i = s.byteAt i := rfl
@[simp] theorem State.setResultFlag_byteAt (x : Nibble) (r : Byte) (c : Bool) (i : Nat) : (s.setResultFlag x r c).byteAt i = s.byteAt i := rfl
@[simp] theorem State.emit_reg (o : Output) (idx : Nibble) : (s.emit o).reg idx = s.reg idx := rfl
@[simp] theorem State.emit_byteAt (o : Output) (i : Nat) : (s.emit o).byteAt i = s.byteAt i := rfl
@[simp] theorem takeFault_reg (r : Raise) (j : Nibble) : (takeFault r s).reg j = s.reg j := rfl
@[simp] theorem takeFault_byteAt (r : Raise) (i : Nat) : (takeFault r s).byteAt i = s.byteAt i := rfl
@[simp] theorem State.emitTrace_reg (p w : Word) (j : Nibble) : (s.emitTrace p w).reg j = s.reg j := by
  simp [State.reg]
@[simp] theorem State.emitTrace_byteAt (p w : Word) (i : Nat) : (s.emitTrace p w).byteAt i = s.byteAt i := by
  simp [State.byteAt]
@[simp] theorem State.dropDraw_reg (j : Nibble) : s.dropDraw.reg j = s.reg j := by simp [State.reg]
@[simp] theorem State.dropDraw_byteAt (i : Nat) : s.dropDraw.byteAt i = s.byteAt i := by simp [State.byteAt]

/-! ### Registers: read after write -/

@[simp] theorem State.reg_setReg_same (x : Nibble) (b : Byte) : (s.setReg x b).reg x = b := by
  simp [State.reg, State.setReg]

theorem State.reg_setReg_other {x j : Nibble} (h : j ≠ x) (b : Byte) : (s.setReg x b).reg j = s.reg j := by
  have hn : x.toNat ≠ j.toNat := fun e => h (BitVec.eq_of_toNat_eq e.symm)
  simp [State.reg, State.setReg, hn]

theorem State.reg_setReg (x j : Nibble) (b : Byte) :
    (s.setReg x b).reg j = if j = x then b else s.reg j := by
  by_cases h : j = x
  · subst h; simp
  · simp [h, State.reg_setReg_other]

/-- Result first, flag last: VF holds the flag, Vx the result unless it is VF (41_register_alu.md R181). -/
theorem State.reg_setResultFlag (x j : Nibble) (r : Byte) (c : Bool) :
    (s.setResultFlag x r c).reg j = if j = vf then flagByte c else if j = x then r else s.reg j := by
  simp [State.setResultFlag, State.reg_setReg]

end Sys2Proof.Machine
end

