-- ==== Sys2Proof/Laws/Memory.lean ====
section
/-! SUPPORT. Memory: a read after a write to the same address gives the byte written, a write leaves every other
address alone, and every operation keeps the canonical form. -/

namespace Sys2Proof.Machine

open Sys2Proof.Config

variable {font : Font}

theorem Memory.lookup_none_of_below {m : Memory} {a : Nat} (h : ∀ c ∈ m, a < c.1) : Memory.lookup m a = none := by
  induction m with
  | nil => rfl
  | cons c m ih =>
    have h0 : a < c.1 := h c (by simp)
    simp [Memory.lookup, Nat.ne_of_gt h0, ih (fun d hd => h d (by simp [hd]))]

theorem Memory.mem_write {m : Memory} {a : Nat} {b : Byte} {c : Host.Cell} (h : c ∈ Memory.write font m a b) :
    (c = (a, b) ∧ b ≠ Memory.unlisted font a) ∨ c ∈ m := by
  induction m with
  | nil =>
    simp only [Memory.write] at h
    split at h
    · simp at h
    · simp_all
  | cons d m ih =>
    simp only [Memory.write] at h
    split at h
    · split at h <;> simp_all
    · split at h
      · split at h <;> simp_all
        rcases h with h | h <;> simp [h]
      · rcases List.mem_cons.mp h with h | h
        · simp [h]
        · rcases ih h with h | h <;> simp [h]

/-- A write keeps the canonical form. -/
theorem Memory.write_wf {m : Memory} {a : Nat} (hm : Memory.wf font m) (ha : a < memSize) (b : Byte) :
    Memory.wf font (Memory.write font m a b) := by
  refine ⟨?_, fun c hc => ?_⟩
  · have hp := hm.1
    clear hm
    induction m with
    | nil => simp only [Memory.write]; split <;> simp
    | cons d m ih =>
      rw [List.pairwise_cons] at hp
      simp only [Memory.write]
      split
      · rename_i had
        split
        · exact List.pairwise_cons.mpr hp
        · refine List.pairwise_cons.mpr ⟨fun c hc => ?_, List.pairwise_cons.mpr hp⟩
          rcases List.mem_cons.mp hc with h | h
          · simpa [h] using had
          · exact Nat.lt_trans had (hp.1 c h)
      · split
        · rename_i had
          split
          · exact hp.2
          · exact List.pairwise_cons.mpr ⟨fun c hc => by simpa [had] using hp.1 c hc, hp.2⟩
        · rename_i h1 h2
          refine List.pairwise_cons.mpr ⟨fun c hc => ?_, ih hp.2⟩
          rcases Memory.mem_write hc with h | h
          · simp only [h.1]; omega
          · exact hp.1 c h
  · rcases Memory.mem_write hc with h | h
    · exact ⟨by simpa [h.1] using ha, by simpa [h.1] using h.2⟩
    · exact hm.2 c h

/-- A read of the address written gives the byte written. -/
theorem Memory.read_write_same {m : Memory} (hm : m.Pairwise (fun c d => c.1 < d.1)) (a : Nat) (b : Byte) :
    Memory.read font (Memory.write font m a b) a = b := by
  induction m with
  | nil =>
    simp only [Memory.write]
    split <;> simp_all [Memory.read, Memory.lookup]
  | cons d m ih =>
    rw [List.pairwise_cons] at hm
    simp only [Memory.write]
    split
    · rename_i had
      split
      · rename_i hb
        have : Memory.lookup (d :: m) a = none := Memory.lookup_none_of_below fun c hc => by
          rcases List.mem_cons.mp hc with h | h
          · simpa [h] using had
          · exact Nat.lt_trans had (hm.1 c h)
        change (Memory.lookup (d :: m) a).getD _ = b
        simp [this, hb]
      · simp [Memory.read, Memory.lookup]
    · split
      · rename_i had
        split
        · rename_i hb
          have : Memory.lookup m a = none := Memory.lookup_none_of_below fun c hc => by
            simpa [had] using hm.1 c hc
          simp [Memory.read, this, hb]
        · simp [Memory.read, Memory.lookup]
      · rename_i h1 h2
        have := ih hm.2
        simpa [Memory.read, Memory.lookup, Ne.symm h2] using this

/-- A write leaves every other address alone. -/
theorem Memory.read_write_other {m : Memory} {a a' : Nat} (h : a' ≠ a) (b : Byte) :
    Memory.read font (Memory.write font m a b) a' = Memory.read font m a' := by
  induction m with
  | nil =>
    simp only [Memory.write]
    split <;> simp [Memory.read, Memory.lookup, Ne.symm h]
  | cons d m ih =>
    simp only [Memory.write]
    split
    · split <;> simp [Memory.read, Memory.lookup, Ne.symm h]
    · split
      · rename_i had
        have hd : d.1 ≠ a' := fun e => h (e.symm.trans had.symm)
        split <;> simp [Memory.read, Memory.lookup, hd, Ne.symm h]
      · by_cases hd : d.1 = a'
        · simp [Memory.read, Memory.lookup, hd]
        · simpa [Memory.read, Memory.lookup, hd] using ih

theorem Memory.writeMany_wf {m : Memory} {a : Nat} {bs : List Byte} (hm : Memory.wf font m)
    (ha : a + bs.length ≤ memSize) : Memory.wf font (Memory.writeMany font m a bs) := by
  induction bs generalizing m a with
  | nil => exact hm
  | cons b bs ih =>
    simp only [List.length_cons] at ha
    exact ih (Memory.write_wf hm (by omega) b) (by omega)

/-- Writing many bytes leaves every address outside them alone. -/
theorem Memory.read_writeMany_outside {m : Memory} {a a' : Nat} {bs : List Byte}
    (h : a' < a ∨ a + bs.length ≤ a') :
    Memory.read font (Memory.writeMany font m a bs) a' = Memory.read font m a' := by
  induction bs generalizing m a with
  | nil => rfl
  | cons b bs ih =>
    simp only [List.length_cons] at h
    rw [Memory.writeMany, ih (by omega), Memory.read_write_other (by omega)]

/-- Writing many bytes gives each address of the range its byte. -/
theorem Memory.read_writeMany_inside {m : Memory} {a k : Nat} {bs : List Byte} (hm : Memory.wf font m)
    (ha : a + bs.length ≤ memSize) (hk : k < bs.length) :
    Memory.read font (Memory.writeMany font m a bs) (a + k) = bs[k] := by
  induction bs generalizing m a k with
  | nil => simp at hk
  | cons b bs ih =>
    simp only [List.length_cons] at ha hk
    have hw := Memory.write_wf hm (a := a) (by omega) b
    rw [Memory.writeMany]
    cases k with
    | zero =>
      rw [Memory.read_writeMany_outside (by omega)]
      simpa using Memory.read_write_same hm.1 a b
    | succ k =>
      have := ih (k := k) hw (a := a + 1) (by omega) (by omega)
      simpa [Nat.add_assoc, Nat.add_comm 1 k] using this

variable {s : State}

theorem State.storeBytes_wf {a : Nat} {bs : List Byte} (hm : Memory.wf s.params.font s.mem)
    (ha : a + bs.length ≤ memSize) :
    Memory.wf (s.storeBytes a bs).params.font (s.storeBytes a bs).mem :=
  Memory.writeMany_wf hm ha

theorem State.storeBytes_byteAt_outside {a i : Nat} {bs : List Byte} (h : i < a ∨ a + bs.length ≤ i) :
    (s.storeBytes a bs).byteAt i = s.byteAt i :=
  Memory.read_writeMany_outside h

theorem State.storeBytes_byteAt_inside {a k : Nat} {bs : List Byte} (hm : Memory.wf s.params.font s.mem)
    (ha : a + bs.length ≤ memSize) (hk : k < bs.length) : (s.storeBytes a bs).byteAt (a + k) = bs[k] :=
  Memory.read_writeMany_inside hm ha hk

end Sys2Proof.Machine
end

