-- ==== Sys2Proof/Laws/Exec.lean ====
section
/-! SUPPORT. What the end of a unit of work, fault entry, fetch, and the operand checks can do, each said once; and
how frames compose. -/

namespace Sys2Proof.Machine

open Sys2Proof.Config

variable {s t u : State}

/-! ### Frames -/

theorem AgreeExcept.refl (ps : List Part) (s : State) : AgreeExcept ps s s := by
  intro p _
  cases p <;> first | rfl | exact fun _ => rfl

theorem AgreeExcept.weaken {ps qs : List Part} (h : AgreeExcept ps s t) (hs : ps ⊆ qs) : AgreeExcept qs s t :=
  fun p hp => h p fun hm => hp (hs hm)

theorem Part.same_trans {p : Part} (h : p.same s t) (k : p.same t u) : p.same s u := by
  cases p <;> first | exact k.trans h | exact fun a => (k a).trans (h a)

theorem AgreeExcept.trans {ps : List Part} (h : AgreeExcept ps s t) (k : AgreeExcept ps t u) :
    AgreeExcept ps s u :=
  fun p hp => Part.same_trans (h p hp) (k p hp)

theorem AgreeExcept.v {ps : List Part} (h : AgreeExcept ps s t) (hp : Part.v ∉ ps) : t.v = s.v :=
  h .v hp
theorem AgreeExcept.iReg {ps : List Part} (h : AgreeExcept ps s t) (hp : Part.iReg ∉ ps) : t.iReg = s.iReg :=
  h .iReg hp
theorem AgreeExcept.pc {ps : List Part} (h : AgreeExcept ps s t) (hp : Part.pc ∉ ps) : t.pc = s.pc :=
  h .pc hp
theorem AgreeExcept.sp {ps : List Part} (h : AgreeExcept ps s t) (hp : Part.sp ∉ ps) : t.sp = s.sp :=
  h .sp hp
theorem AgreeExcept.stack {ps : List Part} (h : AgreeExcept ps s t) (hp : Part.stack ∉ ps) : t.stack = s.stack :=
  h .stack hp
theorem AgreeExcept.dt {ps : List Part} (h : AgreeExcept ps s t) (hp : Part.dt ∉ ps) : t.dt = s.dt :=
  h .dt hp
theorem AgreeExcept.st {ps : List Part} (h : AgreeExcept ps s t) (hp : Part.st ∉ ps) : t.st = s.st :=
  h .st hp
theorem AgreeExcept.keys {ps : List Part} (h : AgreeExcept ps s t) (hp : Part.keys ∉ ps) : t.keys = s.keys :=
  h .keys hp
theorem AgreeExcept.fb {ps : List Part} (h : AgreeExcept ps s t) (hp : Part.fb ∉ ps) : t.fb = s.fb :=
  h .fb hp
theorem AgreeExcept.cpuLoop {ps : List Part} (h : AgreeExcept ps s t) (hp : Part.cpuLoop ∉ ps) : t.cpuLoop = s.cpuLoop :=
  h .cpuLoop hp
theorem AgreeExcept.timerLoop {ps : List Part} (h : AgreeExcept ps s t) (hp : Part.timerLoop ∉ ps) : t.timerLoop = s.timerLoop :=
  h .timerLoop hp
theorem AgreeExcept.displayLoop {ps : List Part} (h : AgreeExcept ps s t) (hp : Part.displayLoop ∉ ps) : t.displayLoop = s.displayLoop :=
  h .displayLoop hp
theorem AgreeExcept.fault {ps : List Part} (h : AgreeExcept ps s t) (hp : Part.fault ∉ ps) : t.fault = s.fault :=
  h .fault hp
theorem AgreeExcept.unimpl {ps : List Part} (h : AgreeExcept ps s t) (hp : Part.unimpl ∉ ps) : t.unimpl = s.unimpl :=
  h .unimpl hp
theorem AgreeExcept.params {ps : List Part} (h : AgreeExcept ps s t) (hp : Part.params ∉ ps) : t.params = s.params :=
  h .params hp
theorem AgreeExcept.agenda {ps : List Part} (h : AgreeExcept ps s t) (hp : Part.agenda ∉ ps) : t.agenda = s.agenda :=
  h .agenda hp
theorem AgreeExcept.rounds {ps : List Part} (h : AgreeExcept ps s t) (hp : Part.rounds ∉ ps) : t.rounds = s.rounds :=
  h .rounds hp
theorem AgreeExcept.draws {ps : List Part} (h : AgreeExcept ps s t) (hp : Part.draws ∉ ps) : t.draws = s.draws :=
  h .draws hp
theorem AgreeExcept.drawCount {ps : List Part} (h : AgreeExcept ps s t) (hp : Part.drawCount ∉ ps) : t.drawCount = s.drawCount :=
  h .drawCount hp
theorem AgreeExcept.out {ps : List Part} (h : AgreeExcept ps s t) (hp : Part.out ∉ ps) : t.out = s.out :=
  h .out hp
theorem AgreeExcept.byteAt {ps : List Part} (h : AgreeExcept ps s t) (hp : Part.mem ∉ ps) (a : Nat) :
    t.byteAt a = s.byteAt a :=
  h .mem hp a
theorem AgreeExcept.reg {ps : List Part} (h : AgreeExcept ps s t) (hp : Part.v ∉ ps) (j : Nibble) :
    t.reg j = s.reg j := by
  simp [State.reg, h.v hp]

/-! ### The end of a CPU unit of work (30_encoding.md R113) -/

@[simp] theorem retire_ok (i : Instr) (s t : State) :
    retire i s (.ok t) = .next (t.emitTrace s.pc (encode i)) := rfl

@[simp] theorem retire_error (i : Instr) (s : State) (r : Raise) :
    retire i s (.error r) = .next (takeFault r s) := rfl

/-- A unit of work that ends answers a next state: the effect with its trace, or fault entry from `s`. -/
theorem retire_next {i : Instr} {e : Except Raise State} (h : retire i s e = .next t) :
    (∃ w, e = .ok w ∧ t = w.emitTrace s.pc (encode i)) ∨ (∃ r, e = .error r ∧ t = takeFault r s) := by
  cases e with
  | ok w => exact .inl ⟨w, rfl, by simpa using h.symm⟩
  | error r => exact .inr ⟨r, rfl, by simpa using h.symm⟩

/-- `takeFault` is fault entry (60_exceptions.md R313). -/
theorem takeFault_entry (r : Raise) (s : State) : FaultEntry r.cause.code r.info s (takeFault r s) := by
  refine ⟨rfl, rfl, rfl, fun p hp => ?_⟩
  cases p <;> first | rfl | exact fun _ => rfl | simp at hp

theorem tracedOut_emitTrace (i : Instr) (h : t.params = s.params) (ho : t.out = s.out) :
    (t.emitTrace s.pc (encode i)).out = tracedOut s i := by
  simp [tracedOut, h, ho]

/-- Fault entry and completion never look alike: their outputs differ. -/
theorem faultEntry_out_ne_traced {code : Byte} {info : Word} {i : Instr} (h : FaultEntry code info s t) :
    t.out ≠ tracedOut s i := by
  rw [h.2.2.1, tracedOut]
  split
  · simp
  · exact List.cons_ne_self _ _

/-! ### Fetch (30_encoding.md R101) -/

theorem fetch16_ok (h : s.pc.toNat + 1 ≤ 0xFFF) :
    fetch16 s = .ok (wordOfBytes (s.byteAt s.pc.toNat) (s.byteAt (s.pc.toNat + 1))) := by
  simp [fetch16]; omega

theorem fetch16_fault (h : 0xFFF < s.pc.toNat + 1) :
    fetch16 s = .error { cause := .fetchAddr, info := s.pc } := by
  simp [fetch16]; omega

/-- The CPU unit runs the decoded instruction. -/
theorem cpuUnit_exec {i : Instr} (h : s.pc.toNat + 1 ≤ 0xFFF)
    (hd : decode (wordOfBytes (s.byteAt s.pc.toNat) (s.byteAt (s.pc.toNat + 1))) = .op i) :
    cpuUnit s = exec i s := by
  simp [cpuUnit, fetch16_ok h, hd]

/-! ### Operand checks -/

theorem checkData_ok {len : Nat} {k : State} (h : len = 0 ∨ s.iReg.toNat + (len - 1) ≤ 0xFFF) :
    checkData len s k = .ok k := by
  unfold checkData
  split
  · omega
  · rfl

theorem checkData_fault {len : Nat} {k : State} (h0 : 0 < len) (h : 0xFFF < s.iReg.toNat + (len - 1)) :
    checkData len s k = .error { cause := .dataAddr, info := BitVec.ofNat 16 (max s.iReg.toNat 0x1000) } := by
  simp [checkData, h0, h]

theorem checkKey_ok {x : Nibble} {c : Bool → State} (h : (s.reg x).toNat ≤ 15) :
    checkKey x s c = .ok (c (s.keys.getLsbD (s.reg x).toNat)) := by
  unfold checkKey
  split
  · omega
  · rfl

theorem checkKey_fault {x : Nibble} {c : Bool → State} (h : 15 < (s.reg x).toNat) :
    checkKey x s c = .error { cause := .keyIndex, info := (s.reg x).setWidth 16 } := by
  simp [checkKey, h]

theorem keyMode_implemented {k : Except Raise State} (h : s.params.keyMode = .implemented) :
    keyMode s k = k := by simp [keyMode, h]

theorem keyMode_stubbed {k : Except Raise State} (h : s.params.keyMode = .stubbed) :
    keyMode s k = .ok s.advance := by simp [keyMode, h]

theorem lowestKey_eq_some {keys : Word} {k : Nat} (hk : k < 16) (h : keys.getLsbD k = true)
    (hl : ∀ j, j < k → keys.getLsbD j = false) : lowestKey keys = some k := by
  have : ∀ n, k < n → (List.range n).find? (fun k => keys.getLsbD k) = some k := by
    intro n
    induction n with
    | zero => intro hn; omega
    | succ n ih =>
      intro hn
      rw [List.range_succ, List.find?_append]
      by_cases hkn : k < n
      · simp [ih hkn]
      · have hkn : k = n := by omega
        subst hkn
        have : (List.range k).find? (fun j => keys.getLsbD j) = none := by
          rw [List.find?_eq_none]
          intro j hj
          simp [hl j (by simpa using hj)]
        simp [this, h]
  exact this 16 hk

theorem lowestKey_zero : lowestKey 0 = none := by decide

/-! ### Register blocks -/

/-- Loading a block sets V0 to Vx and no other register (44_index_memory.md R285). -/
theorem loadBlock_reg (x j : Nibble) (s : State) :
    (loadBlock x s).reg j = if j.toNat ≤ x.toNat then s.byteAt (s.iReg.toNat + j.toNat) else s.reg j := by
  have key : ∀ n, n ≤ 16 →
      ((List.range n).foldl
        (fun t k => t.setReg (BitVec.ofNat 4 k) (s.byteAt (s.iReg.toNat + k))) s).reg j =
      if j.toNat < n then s.byteAt (s.iReg.toNat + j.toNat) else s.reg j := by
    intro n
    induction n with
    | zero => simp
    | succ n ih =>
      intro hn
      rw [List.range_succ, List.foldl_append, List.foldl_cons, List.foldl_nil, State.reg_setReg,
        ih (by omega)]
      have hne : (j = BitVec.ofNat 4 n) ↔ j.toNat = n := by
        constructor
        · rintro rfl; simp; omega
        · intro h; apply BitVec.eq_of_toNat_eq; simp; omega
      by_cases h : j.toNat = n
      · simp [hne, h]
      · have : (j.toNat < n + 1) ↔ (j.toNat < n) := by omega
        simp [hne, h, this]
  have := key (x.toNat + 1) (by omega)
  simpa [loadBlock, Nat.lt_succ_iff] using this

/-- Loading a block writes only general registers. -/
theorem loadBlock_agree (x : Nibble) (s : State) : AgreeExcept [.v] s (loadBlock x s) := by
  have key : ∀ (l : List Nat) (t : State), AgreeExcept [.v] s t → AgreeExcept [.v] s
      (l.foldl (fun t k => t.setReg (BitVec.ofNat 4 k) (s.byteAt (s.iReg.toNat + k))) t) := by
    intro l
    induction l with
    | nil => exact fun _ h => h
    | cons k l ih =>
      intro t h
      refine ih _ (h.trans fun p hp => ?_)
      cases p <;> first | rfl | exact fun _ => rfl | simp at hp
  exact key _ s (AgreeExcept.refl _ s)

@[simp] theorem regBlock_length (x : Nibble) (s : State) : (regBlock x s).length = x.toNat + 1 := by
  simp [regBlock]

theorem regBlock_getElem (x j : Nibble) (s : State) (h : j.toNat < (regBlock x s).length) :
    (regBlock x s)[j.toNat] = s.reg j := by
  simp [regBlock]

end Sys2Proof.Machine
end

