-- ==== Sys2Proof/Laws/Control.lean ====
section
/-! SUPPORT. What one step does with the first entry of the agenda, and what each transition of a pass does
(60_exceptions.md R324). -/

namespace Sys2Proof.Machine

variable {s : State}

/-! ### The choice of the transition -/

theorem step_chosen {a : Action} {rest : List Action} (h : s.agenda = a :: rest) :
    step s = chosenTransition a rest s := by
  simp [step, nextTransition, h]

/-- With nothing chosen, a step is the step after the environment's next round is chosen. -/
theorem step_round (h : s.agenda = []) :
    step s = step { s with
      agenda := (fairRound (Config.freeRound s.rounds)).1 :: (fairRound (Config.freeRound s.rounds)).2
      rounds := s.rounds + 1 } := by
  simp [step, nextTransition, h]
  rfl

theorem step_pass {l : Loop} {rest : List Action} (h : s.agenda = .pass l :: rest) :
    step s = passTransition l { s with agenda := rest } := by
  simp [step_chosen h, chosenTransition, blockedOn, perform]

/-- A pass that opens the next round is performed in the step that chooses the round. -/
theorem step_round_pass {l : Loop} (h : s.agenda = []) (hl : (fairRound (Config.freeRound s.rounds)).1 = .pass l) :
    step s = passTransition l { s with
      agenda := (fairRound (Config.freeRound s.rounds)).2, rounds := s.rounds + 1 } := by
  rw [step_round h, step_pass (l := l) (rest := (fairRound (Config.freeRound s.rounds)).2) (by rw [hl])]

theorem step_host {op : HostOp} {rest : List Action} (h : s.agenda = .host op :: rest)
    (hb : blockedOn (.host op) s = none) : step s = .next (hostOp op { s with agenda := rest }) := by
  simp [step_chosen h, chosenTransition, hb, perform]

theorem step_blocked {l : Loop} {m : Msg} {rest : List Action} (h : s.agenda = .host (.send l m) :: rest)
    (hf : queueFull l s = true) : step s = passTransition l s := by
  have hs : ({ s with agenda := .host (.send l m) :: rest } : State) = s := by rw [← h]
  simp [step_chosen h, chosenTransition, blockedOn, hf, hs]

/-! ### Rounds: every loop is served in each (60_exceptions.md R333) -/

theorem mem_missingPasses {l : List Action} {a : Action} :
    a ∈ missingPasses l ↔ ∃ k, a = .pass k ∧ Action.pass k ∉ l := by
  simp only [missingPasses, List.mem_map, List.mem_filter, decide_eq_true_eq]
  constructor
  · rintro ⟨k, ⟨-, h⟩, rfl⟩
    exact ⟨k, rfl, h⟩
  · rintro ⟨k, rfl, h⟩
    exact ⟨k, ⟨by cases k <;> decide, h⟩, rfl⟩

theorem pass_mem_fairRound (l : List Action) (k : Loop) : Action.pass k ∈ (fairRound l).1 :: (fairRound l).2 := by
  cases l with
  | nil => cases k <;> decide
  | cons a l =>
    by_cases h : Action.pass k ∈ a :: l
    · rw [fairRound, ← List.cons_append]
      exact List.mem_append_left _ h
    · rw [fairRound, ← List.cons_append]
      exact List.mem_append_right _ (mem_missingPasses.mpr ⟨k, rfl, h⟩)

/-- A round that already serves every loop is the environment's list, unchanged: no such interleaving is lost. -/
theorem fairRound_of_served {a : Action} {l : List Action} (h : ∀ k, Action.pass k ∈ a :: l) :
    fairRound (a :: l) = (a, l) := by
  have hm : missingPasses (a :: l) = [] := List.eq_nil_iff_forall_not_mem.mpr fun b hb => by
    obtain ⟨k, -, hk⟩ := mem_missingPasses.mp hb
    exact hk (h k)
  rw [fairRound, hm, List.append_nil]

/-- Only a send to a full queue waits. -/
theorem blockedOn_eq_some {a : Action} {l : Loop} (h : blockedOn a s = some l) :
    ∃ m, a = .host (.send l m) ∧ queueFull l s = true := by
  cases a with
  | pass _ => simp [blockedOn] at h
  | host op =>
    cases op <;> simp [blockedOn] at h
    rename_i l' m
    obtain ⟨hq, rfl⟩ := h
    exact ⟨m, rfl, hq⟩

/-- When a queue is full: its depth is finite and reached (60_exceptions.md R332; depth 0 counts as 1, log 15). -/
theorem queueFull_eq_true {l : Loop} :
    queueFull l s = true ↔ ∃ d, s.params.queueDepth = some d ∧ max d 1 ≤ (s.loop l).queue.length := by
  unfold queueFull
  cases s.params.queueDepth with
  | none => simp only [Bool.false_eq_true, reduceCtorEq, false_and, exists_false]
  | some d => simp only [decide_eq_true_eq, Option.some.injEq, exists_eq_left']

/-- When it has room: its depth is unbounded, or not reached. -/
theorem queueFull_eq_false {l : Loop} :
    queueFull l s = false ↔ s.params.queueDepth = none ∨
      ∃ d, s.params.queueDepth = some d ∧ (s.loop l).queue.length < max d 1 := by
  unfold queueFull
  cases s.params.queueDepth with
  | none => simp only [true_or]
  | some d => simp only [decide_eq_false_iff_not, Nat.not_le, reduceCtorEq, Option.some.injEq, exists_eq_left', false_or]

/-! ### Runs -/

theorem State.Reaches.refl (s : State) : s.Reaches s := ⟨0, rfl⟩

/-- A step, then a run. -/
theorem State.Reaches.head {t u : State} (h : step s = .next t) (k : t.Reaches u) : s.Reaches u := by
  obtain ⟨n, hn⟩ := k
  refine ⟨n + 1, ?_⟩
  have hc : Sys2Proof.core.step s = .next t := h
  simp only [Host.Core.run, hc]
  exact hn

/-! ### The transitions of a pass -/

theorem passTransition_message {l : Loop} {m : Msg} {q : List Msg} (hm : (s.loop l).midPass = false)
    (hq : (s.loop l).queue = m :: q) :
    passTransition l s =
      applyMsg l m (s.setLoop l { s.loop l with queue := q, midPass := (s.loop l).due }) := by
  simp [passTransition, hm, hq]

theorem passTransition_tick {l : Loop}
    (h : (s.loop l).midPass = true ∨ ((s.loop l).queue = [] ∧ (s.loop l).due = true)) :
    passTransition l s = tickTransition l s := by
  rcases h with h | ⟨hq, hd⟩
  · simp [passTransition, h]
  · simp [passTransition, hq, hd]

theorem passTransition_idle {l : Loop} (hm : (s.loop l).midPass = false) (hq : (s.loop l).queue = [])
    (hd : (s.loop l).due = false) : passTransition l s = .next s := by
  simp [passTransition, hm, hq, hd]

theorem tickTransition_running {l : Loop} (h : (s.loop l).run = .running) :
    tickTransition l s = unitOf l (s.setLoop l { s.loop l with due := false, midPass := false }) := by
  simp [tickTransition, h]

theorem tickTransition_stopped {l : Loop} (h : (s.loop l).run = .stopped) :
    tickTransition l s = .next (s.setLoop l { s.loop l with due := false, midPass := false }) := by
  simp [tickTransition, h]

end Sys2Proof.Machine
end

