-- ==== Sys2Proof/Laws/Display.lean ====
section
/-! SUPPORT. The framebuffer: what flipping one pixel does to every pixel, and what a blit and a
DRW write. -/

namespace Sys2Proof.Machine

theorem Framebuffer.pixel_flip (fb : Framebuffer) (px py qx qy : Nat) :
    (fb.flip px py).pixel qx qy =
      if qx % 64 = px % 64 ∧ qy % 32 = py % 32 then !fb.pixel qx qy else fb.pixel qx qy := by
  unfold Framebuffer.pixel Framebuffer.flip
  by_cases hy : qy % 32 = py % 32
  · by_cases hx : qx % 64 = px % 64
    · simp [hx, hy, Framebuffer.pixel]
    · have hx' : px % 64 ≠ qx % 64 := fun e => hx e.symm
      simp [hx, hx', hy]
  · have hy' : py % 32 ≠ qy % 32 := fun e => hy e.symm
    simp [hy, hy']

@[simp] theorem Framebuffer.pixel_clear (px py : Nat) : Framebuffer.clear.pixel px py = false := by
  simp [Framebuffer.pixel, Framebuffer.clear]

/-- Two framebuffers with the same pixels are equal. -/
theorem Framebuffer.ext_pixel {f g : Framebuffer}
    (h : ∀ px py, px < 64 → py < 32 → f.pixel px py = g.pixel px py) : f = g := by
  apply Vector.ext
  intro y hy
  apply Vector.ext
  intro x hx
  have := h x y hx hy
  simpa [Framebuffer.pixel, Nat.mod_eq_of_lt hx, Nat.mod_eq_of_lt hy] using this

@[simp] theorem spriteRows_length (n : Nat) (s : State) : (spriteRows n s).length = n := by
  simp [spriteRows]

theorem spriteRows_getD (n r : Nat) (s : State) (h : r < n) :
    (spriteRows n s).getD r 0 = s.byteAt (s.iReg.toNat + r) := by
  simp [spriteRows, List.getD, h]

/-- What one pixel of a sprite does to every pixel of the screen. -/
theorem blitPixel_pixel (b : Blit) {px py qx qy : Nat} (hp : px < 64 ∧ py < 32) (hq : qx < 64 ∧ qy < 32) :
    (blitPixel px py b).fb.pixel qx qy =
      if qx = px ∧ qy = py then !b.fb.pixel qx qy else b.fb.pixel qx qy := by
  simp only [blitPixel, Framebuffer.pixel_flip, Nat.mod_eq_of_lt hp.1, Nat.mod_eq_of_lt hp.2,
    Nat.mod_eq_of_lt hq.1, Nat.mod_eq_of_lt hq.2]

/-- Blitting a list of distinct pixels flips exactly those, and collides exactly when one of them was set before
(42_display.md R222, R223, R226). -/
theorem foldl_blitPixel (l : List (Nat × Nat)) (b : Blit) (hl : l.Nodup) (hr : ∀ p ∈ l, p.1 < 64 ∧ p.2 < 32) :
    (∀ px py, px < 64 → py < 32 →
      (l.foldl (fun b p => blitPixel p.1 p.2 b) b).fb.pixel px py =
        if (px, py) ∈ l then !b.fb.pixel px py else b.fb.pixel px py) ∧
    ((l.foldl (fun b p => blitPixel p.1 p.2 b) b).col = true ↔
      b.col = true ∨ ∃ p ∈ l, b.fb.pixel p.1 p.2 = true) := by
  induction l generalizing b with
  | nil => simp
  | cons p l ih =>
    rw [List.nodup_cons] at hl
    have hp := hr p (by simp)
    have hne : ∀ q ∈ l, ¬ (q.1 = p.1 ∧ q.2 = p.2) := fun q hq e =>
      hl.1 (by rw [← show q = p from Prod.ext e.1 e.2]; exact hq)
    obtain ⟨ihp, ihc⟩ := ih (blitPixel p.1 p.2 b) hl.2 fun q hq => hr q (by simp [hq])
    have hcol : (blitPixel p.1 p.2 b).col = true ↔ b.col = true ∨ b.fb.pixel p.1 p.2 = true := by
      simp [blitPixel]
    rw [List.foldl_cons]
    refine ⟨fun px py hx hy => ?_, ?_⟩
    · rw [ihp px py hx hy, blitPixel_pixel b hp ⟨hx, hy⟩]
      by_cases e : (px, py) = p
      · subst e; simp [hl.1]
      · have : ¬ (px = p.1 ∧ py = p.2) := fun h => e (by ext <;> simp [h])
        simp [this, e]
    · rw [ihc, hcol]
      constructor
      · rintro ((h | h) | ⟨q, hq, h⟩)
        · exact .inl h
        · exact .inr ⟨p, by simp, h⟩
        · rw [blitPixel_pixel b hp (hr q (by simp [hq])), if_neg (hne q hq)] at h
          exact .inr ⟨q, by simp [hq], h⟩
      · rintro (h | ⟨q, hq, h⟩)
        · exact .inl (.inl h)
        · rcases List.mem_cons.mp hq with rfl | e
          · exact .inl (.inr h)
          · refine .inr ⟨q, e, ?_⟩
            rwa [blitPixel_pixel b hp (hr q hq), if_neg (hne q e)]

/-- The screen pixels a sprite's 1 bits land on, in the order of 42_display.md R225. -/
def spritePixels (ox oy : Nat) (rows : List Byte) : List (Nat × Nat) :=
  (List.range rows.length).flatMap fun r =>
    ((List.range 8).filter fun c => (rows.getD r 0).getLsbD (7 - c)).map fun c => ((ox + c) % 64, (oy + r) % 32)

theorem blitRow_eq (ox py : Nat) (row : Byte) (b : Blit) :
    blitRow ox py row b =
      (((List.range 8).filter fun c => row.getLsbD (7 - c)).map fun c => ((ox + c) % 64, py)).foldl
        (fun b p => blitPixel p.1 p.2 b) b := by
  rw [List.foldl_map, List.foldl_filter]; rfl

theorem blitRows_eq (ox oy : Nat) (rows : List Byte) (b : Blit) :
    blitRows ox oy rows b = (spritePixels ox oy rows).foldl (fun b p => blitPixel p.1 p.2 b) b := by
  simp only [blitRows, spritePixels, List.foldl_flatMap, blitRow_eq]

theorem mem_spritePixels {ox oy : Nat} {rows : List Byte} {p : Nat × Nat} :
    p ∈ spritePixels ox oy rows ↔ ∃ r c, r < rows.length ∧ c < 8 ∧ (rows.getD r 0).getLsbD (7 - c) = true ∧
      p = ((ox + c) % 64, (oy + r) % 32) := by
  simp only [spritePixels, List.mem_flatMap, List.mem_map, List.mem_filter, List.mem_range]
  constructor
  · rintro ⟨r, hr, c, ⟨hc, hb⟩, rfl⟩; exact ⟨r, c, hr, hc, hb, rfl⟩
  · rintro ⟨r, c, hr, hc, hb, rfl⟩; exact ⟨r, hr, c, ⟨hc, hb⟩, rfl⟩

theorem spritePixels_nodup {ox oy : Nat} {rows : List Byte} (h : rows.length ≤ 32) :
    (spritePixels ox oy rows).Nodup := by
  rw [spritePixels, List.nodup_flatMap]
  constructor
  · intro r _
    refine List.Nodup.map_on (fun c hc d hd e => ?_) (List.nodup_range.filter _)
    simp at hc hd e; omega
  · refine List.Pairwise.imp_of_mem ?_ List.nodup_range
    intro r r' hr hr' hne
    simp at hr hr'
    intro p hp hp'
    simp at hp hp'
    obtain ⟨c, -, rfl⟩ := hp
    obtain ⟨d, -, e⟩ := hp'
    simp at e; omega
/-- The blit of DRW flips exactly the pixels its sprite covers, and collides exactly when one of them was set
(42_display.md R225). -/
theorem drawSprite_spec (x y n : Nibble) (s : State) :
    (∀ px py, px < 64 → py < 32 →
      (SpriteCovers s x y n px py → (drawSprite x y n s).fb.pixel px py = !s.fb.pixel px py) ∧
      (¬ SpriteCovers s x y n px py → (drawSprite x y n s).fb.pixel px py = s.fb.pixel px py)) ∧
    ((drawSprite x y n s).col = true ↔
      ∃ px py, px < 64 ∧ py < 32 ∧ SpriteCovers s x y n px py ∧ s.fb.pixel px py = true) := by
  have hmem : ∀ px py, (px, py) ∈ spritePixels (s.reg x).toNat (s.reg y).toNat (spriteRows n.toNat s) ↔
      SpriteCovers s x y n px py := by
    intro px py
    rw [mem_spritePixels, SpriteCovers]
    constructor
    · rintro ⟨r, c, hr, hc, hb, e⟩
      rw [spriteRows_length] at hr
      rw [spriteRows_getD _ _ _ hr] at hb
      simp only [Prod.mk.injEq] at e
      exact ⟨r, c, hr, hc, e.2, e.1, hb⟩
    · rintro ⟨r, c, hr, hc, ey, ex, hb⟩
      exact ⟨r, c, by simpa using hr, hc, by rwa [spriteRows_getD _ _ _ hr], by rw [ex, ey]⟩
  have hrange : ∀ p ∈ spritePixels (s.reg x).toNat (s.reg y).toNat (spriteRows n.toNat s),
      p.1 < 64 ∧ p.2 < 32 := by
    intro p hp
    obtain ⟨r, c, -, -, -, rfl⟩ := mem_spritePixels.mp hp
    simp only
    omega
  have hnodup : (spritePixels (s.reg x).toNat (s.reg y).toNat (spriteRows n.toNat s)).Nodup :=
    spritePixels_nodup (by simp; omega)
  obtain ⟨hpix, hcol⟩ := foldl_blitPixel _ { fb := s.fb, col := false } hnodup hrange
  rw [← blitRows_eq] at hpix hcol
  refine ⟨fun px py hx hy => ?_, ?_⟩
  · have := hpix px py hx hy
    rw [drawSprite, this]
    exact ⟨fun h => by rw [if_pos ((hmem px py).mpr h)], fun h => by rw [if_neg (mt (hmem px py).mp h)]⟩
  · rw [drawSprite, hcol]
    constructor
    · rintro (h | ⟨⟨px, py⟩, hp, h⟩)
      · cases h
      · exact ⟨px, py, (hrange _ hp).1, (hrange _ hp).2, (hmem px py).mp hp, h⟩
    · rintro ⟨px, py, -, -, hc, h⟩
      exact .inr ⟨(px, py), (hmem px py).mpr hc, h⟩

end Sys2Proof.Machine
end

