-- ==== Sys2Proof/Laws/Encoding.lean ====
section
/-! SUPPORT. The fields of a word and the words of the formats as numbers (30_encoding.md R102, R103), so that facts
about encodings are linear arithmetic; and the fields of each format's word. -/

namespace Sys2Proof

/-! ### Fields as numbers -/

theorem opOf_toNat (w : Word) : (opOf w).toNat = w.toNat / 4096 := by
  have := w.isLt
  simp [opOf, BitVec.extractLsb'_toNat, Nat.shiftRight_eq_div_pow]; omega

theorem xOf_toNat (w : Word) : (xOf w).toNat = w.toNat / 256 % 16 := by
  simp [xOf, BitVec.extractLsb'_toNat, Nat.shiftRight_eq_div_pow]

theorem yOf_toNat (w : Word) : (yOf w).toNat = w.toNat / 16 % 16 := by
  simp [yOf, BitVec.extractLsb'_toNat, Nat.shiftRight_eq_div_pow]

theorem nOf_toNat (w : Word) : (nOf w).toNat = w.toNat % 16 := by
  simp [nOf, BitVec.extractLsb'_toNat]

theorem kkOf_toNat (w : Word) : (kkOf w).toNat = w.toNat % 256 := by
  simp [kkOf, BitVec.extractLsb'_toNat]

theorem nnnOf_toNat (w : Word) : (nnnOf w).toNat = w.toNat % 4096 := by
  simp [nnnOf, BitVec.extractLsb'_toNat]

theorem hiByte_toNat (w : Word) : (hiByte w).toNat = w.toNat / 256 := by
  have := w.isLt
  simp [hiByte, BitVec.extractLsb'_toNat, Nat.shiftRight_eq_div_pow]; omega

theorem loByte_toNat (w : Word) : (loByte w).toNat = w.toNat % 256 := by
  simp [loByte, BitVec.extractLsb'_toNat]

/-! ### Words as numbers -/

theorem append_toNat {m n : Nat} (a : BitVec m) (b : BitVec n) :
    (a ++ b).toNat = a.toNat * 2 ^ n + b.toNat := by
  rw [BitVec.toNat_append, ← Nat.shiftLeft_add_eq_or_of_lt b.isLt, Nat.shiftLeft_eq]

theorem wordOfBytes_toNat (hi lo : Byte) : (wordOfBytes hi lo).toNat = hi.toNat * 256 + lo.toNat :=
  append_toNat hi lo

theorem wordA_toNat (op : Nibble) (nnn : Addr) : (wordA op nnn).toNat = op.toNat * 4096 + nnn.toNat :=
  append_toNat op nnn

theorem wordXK_toNat (op x : Nibble) (kk : Byte) :
    (wordXK op x kk).toNat = op.toNat * 4096 + x.toNat * 256 + kk.toNat := by
  rw [wordXK, append_toNat, append_toNat]; omega

theorem wordXYN_toNat (op x y n : Nibble) :
    (wordXYN op x y n).toNat = op.toNat * 4096 + x.toNat * 256 + y.toNat * 16 + n.toNat := by
  rw [wordXYN, append_toNat, append_toNat, append_toNat]; omega

/-- The two bytes of a word, put together big-endian, are the word. -/
@[simp] theorem wordOfBytes_hiByte_loByte (w : Word) : wordOfBytes (hiByte w) (loByte w) = w := by
  apply BitVec.eq_of_toNat_eq
  rw [wordOfBytes_toNat, hiByte_toNat, loByte_toNat]; omega

/-! ### The fields of each format's word -/

@[simp] theorem opOf_wordA (op : Nibble) (nnn : Addr) : opOf (wordA op nnn) = op := by
  apply BitVec.eq_of_toNat_eq; rw [opOf_toNat, wordA_toNat]; omega

@[simp] theorem nnnOf_wordA (op : Nibble) (nnn : Addr) : nnnOf (wordA op nnn) = nnn := by
  apply BitVec.eq_of_toNat_eq; rw [nnnOf_toNat, wordA_toNat]; omega

@[simp] theorem opOf_wordXK (op x : Nibble) (kk : Byte) : opOf (wordXK op x kk) = op := by
  apply BitVec.eq_of_toNat_eq; rw [opOf_toNat, wordXK_toNat]; omega

@[simp] theorem xOf_wordXK (op x : Nibble) (kk : Byte) : xOf (wordXK op x kk) = x := by
  apply BitVec.eq_of_toNat_eq; rw [xOf_toNat, wordXK_toNat]; omega

@[simp] theorem kkOf_wordXK (op x : Nibble) (kk : Byte) : kkOf (wordXK op x kk) = kk := by
  apply BitVec.eq_of_toNat_eq; rw [kkOf_toNat, wordXK_toNat]; omega

@[simp] theorem opOf_wordXYN (op x y n : Nibble) : opOf (wordXYN op x y n) = op := by
  apply BitVec.eq_of_toNat_eq; rw [opOf_toNat, wordXYN_toNat]; omega

@[simp] theorem xOf_wordXYN (op x y n : Nibble) : xOf (wordXYN op x y n) = x := by
  apply BitVec.eq_of_toNat_eq; rw [xOf_toNat, wordXYN_toNat]; omega

@[simp] theorem yOf_wordXYN (op x y n : Nibble) : yOf (wordXYN op x y n) = y := by
  apply BitVec.eq_of_toNat_eq; rw [yOf_toNat, wordXYN_toNat]; omega

@[simp] theorem nOf_wordXYN (op x y n : Nibble) : nOf (wordXYN op x y n) = n := by
  apply BitVec.eq_of_toNat_eq; rw [nOf_toNat, wordXYN_toNat]; omega

/-! ### A word is made of its fields -/

theorem wordA_fields (w : Word) : wordA (opOf w) (nnnOf w) = w := by
  apply BitVec.eq_of_toNat_eq; rw [wordA_toNat, opOf_toNat, nnnOf_toNat]; omega

theorem wordXK_fields (w : Word) : wordXK (opOf w) (xOf w) (kkOf w) = w := by
  apply BitVec.eq_of_toNat_eq; rw [wordXK_toNat, opOf_toNat, xOf_toNat, kkOf_toNat]; omega

theorem wordXYN_fields (w : Word) : wordXYN (opOf w) (xOf w) (yOf w) (nOf w) = w := by
  apply BitVec.eq_of_toNat_eq; rw [wordXYN_toNat, opOf_toNat, xOf_toNat, yOf_toNat, nOf_toNat]; omega

end Sys2Proof
end

