-- ==== Sys2Proof/Laws/Effect.lean ====
section
/-! SUPPORT. What `exec` can do, said once for all instructions: complete within the instruction's reach, take one of
its causes, or stop on an illegal stack pointer. -/

namespace Sys2Proof.Machine

variable {s : State}

/-- The parts an instruction's own effect can change: the outputs, the keys, the loops, the records, the parameters
the agenda and the rounds are outside it. -/
abbrev effectParts : List Part := [.v, .iReg, .pc, .sp, .stack, .dt, .st, .fb, .mem, .draws, .drawCount]

/-- The causes an instruction can raise after its fetch (60_exceptions.md R312). -/
def causesOf : Instr → List Cause
  | .sys _ => []
  | .cls => []
  | .ret => [.stackUnderflow]
  | .jp _ => []
  | .call _ => [.stackOverflow]
  | .seByte _ _ => []
  | .sneByte _ _ => []
  | .seReg _ _ => []
  | .ldByte _ _ => []
  | .addByte _ _ => []
  | .ldReg _ _ => []
  | .orReg _ _ => []
  | .andReg _ _ => []
  | .xorReg _ _ => []
  | .addReg _ _ => []
  | .subReg _ _ => []
  | .shr _ _ => []
  | .subnReg _ _ => []
  | .shl _ _ => []
  | .sneReg _ _ => []
  | .ldI _ => []
  | .jpV0 _ => []
  | .rnd _ _ => []
  | .drw _ _ _ => [.dataAddr]
  | .skp _ => [.keyIndex]
  | .sknp _ => [.keyIndex]
  | .ldVxDT _ => []
  | .ldVxK _ => []
  | .ldDTVx _ => []
  | .ldSTVx _ => []
  | .addI _ => []
  | .ldF _ => []
  | .ldB _ => [.dataAddr]
  | .storeRegs _ => [.dataAddr]
  | .loadRegs _ => [.dataAddr]

/-- What `exec i s` can answer. -/
inductive Effect (i : Instr) (s : State) : Host.Outcome State Fault Refusal → Prop
  | completes (w : State) (h : AgreeExcept effectParts s w) : Effect i s (.next (w.emitTrace s.pc (encode i)))
  | raises (r : Raise) (h : r.cause ∈ causesOf i) : Effect i s (.next (takeFault r s))
  | stops (h : 15 < s.sp.toNat) : Effect i s (.fault .spOutOfRange)

/-- `retire` on an effect within reach, or a cause of the instruction. -/
theorem retire_effect {i : Instr} {e : Except Raise State} (hok : ∀ w, e = .ok w → AgreeExcept effectParts s w)
    (herr : ∀ r, e = .error r → r.cause ∈ causesOf i) : Effect i s (retire i s e) := by
  cases e with
  | ok w => exact .completes w (hok w rfl)
  | error r => exact .raises r (herr r rfl)

theorem retire_ok_effect {i : Instr} {w : State} (h : AgreeExcept effectParts s w) :
    Effect i s (retire i s (.ok w)) := .completes w h

/-- A record update of parts within reach agrees on the rest: the other parts are the same field, by computation. -/
theorem agree_effect {w : State} (hk : w.keys = s.keys) (hc : w.cpuLoop = s.cpuLoop) (ht : w.timerLoop = s.timerLoop)
    (hd : w.displayLoop = s.displayLoop) (hf : w.fault = s.fault) (hu : w.unimpl = s.unimpl)
    (hp : w.params = s.params) (ha : w.agenda = s.agenda) (hr : w.rounds = s.rounds) (ho : w.out = s.out) : AgreeExcept effectParts s w := by
  intro p hp'
  cases p <;> first | assumption | exact absurd (by simp) hp'

theorem checkData_effect {i : Instr} {n : Nat} {w : State} (hw : AgreeExcept effectParts s w)
    (hi : causesOf i = [.dataAddr]) : Effect i s (retire i s (checkData n s w)) := by
  unfold checkData
  split
  · exact .raises _ (by simp [hi])
  · exact .completes w hw

theorem checkKey_effect {i : Instr} {x : Nibble} {c : Bool → State} (hc : ∀ b, AgreeExcept effectParts s (c b))
    (hi : causesOf i = [.keyIndex]) : Effect i s (retire i s (keyMode s (checkKey x s c))) := by
  unfold keyMode checkKey
  split
  · split
    · exact .raises _ (by simp [hi])
    · exact .completes _ (hc _)
  · exact .completes _ (agree_effect rfl rfl rfl rfl rfl rfl rfl rfl rfl rfl)

/-- Every instruction completes within reach, takes one of its own causes, or stops because sp is illegal. -/
theorem exec_effect (i : Instr) (s : State) : Effect i s (exec i s) := by
  cases i
  case call nnn =>
    simp only [exec, execCall]
    split
    · exact .raises _ (by simp [causesOf])
    · split
      · exact .stops ‹_›
      · exact .completes _ (agree_effect rfl rfl rfl rfl rfl rfl rfl rfl rfl rfl)
  case ret =>
    simp only [exec, execRet]
    split
    · exact .raises _ (by simp [causesOf])
    · split
      · exact .completes _ (agree_effect rfl rfl rfl rfl rfl rfl rfl rfl rfl rfl)
      · rename_i h
        exact .stops (by simp [State.stackEntry] at h; omega)
  case drw x y n => exact checkData_effect (agree_effect rfl rfl rfl rfl rfl rfl rfl rfl rfl rfl) rfl
  case ldB x => exact checkData_effect (agree_effect rfl rfl rfl rfl rfl rfl rfl rfl rfl rfl) rfl
  case storeRegs x => exact checkData_effect (agree_effect rfl rfl rfl rfl rfl rfl rfl rfl rfl rfl) rfl
  case loadRegs x =>
    refine checkData_effect ?_ rfl
    exact (AgreeExcept.weaken (loadBlock_agree x s) (by simp)).trans
      (agree_effect rfl rfl rfl rfl rfl rfl rfl rfl rfl rfl)
  case skp x => exact checkKey_effect (fun _ => agree_effect rfl rfl rfl rfl rfl rfl rfl rfl rfl rfl) rfl
  case sknp x => exact checkKey_effect (fun _ => agree_effect rfl rfl rfl rfl rfl rfl rfl rfl rfl rfl) rfl
  case ldVxK x =>
    simp only [exec, execLdVxK, keyMode, waitKey]
    split
    · split <;> exact .completes _ (agree_effect rfl rfl rfl rfl rfl rfl rfl rfl rfl rfl)
    · exact .completes _ (agree_effect rfl rfl rfl rfl rfl rfl rfl rfl rfl rfl)
  case rnd x kk =>
    refine .completes _ ?_
    unfold State.dropDraw
    split <;> exact agree_effect rfl rfl rfl rfl rfl rfl rfl rfl rfl rfl
  all_goals exact .completes _ (agree_effect rfl rfl rfl rfl rfl rfl rfl rfl rfl rfl)

/-- With sp legal, every instruction answers a next state. -/
theorem exec_next (i : Instr) (h : s.sp.toNat ≤ 15) : ∃ t, exec i s = .next t := by
  cases he : exec i s with
  | next t => exact ⟨t, rfl⟩
  | fault f => have := exec_effect i s; rw [he] at this; cases this; omega
  | refused r => have := exec_effect i s; rw [he] at this; cases this

/-! ### Units of work -/

/-- What no unit of work touches: the choices, and each loop's queue, tick and pass. -/
structure SameControl (s t : State) : Prop where
  agenda : t.agenda = s.agenda
  rounds : t.rounds = s.rounds
  params : t.params = s.params
  queue : ∀ k, (t.loop k).queue = (s.loop k).queue
  due : ∀ k, (t.loop k).due = (s.loop k).due
  midPass : ∀ k, (t.loop k).midPass = (s.loop k).midPass

theorem takeFault_sameControl (r : Raise) (s : State) : SameControl s (takeFault r s) :=
  ⟨rfl, rfl, rfl, fun k => by cases k <;> rfl, fun k => by cases k <;> rfl, fun k => by cases k <;> rfl⟩

/-- States that agree on the loops and the choices. -/
theorem AgreeExcept.sameControl {t : State} {ps : List Part} (h : AgreeExcept ps s t) (ha : Part.agenda ∉ ps)
    (hr : Part.rounds ∉ ps) (hp : Part.params ∉ ps) (hc : Part.cpuLoop ∉ ps) (ht : Part.timerLoop ∉ ps)
    (hd : Part.displayLoop ∉ ps) : SameControl s t := by
  have hl : ∀ k, t.loop k = s.loop k := fun k => by
    cases k
    · exact h.cpuLoop hc
    · exact h.timerLoop ht
    · exact h.displayLoop hd
  exact ⟨h.agenda ha, h.rounds hr, h.params hp, fun k => by rw [hl k], fun k => by rw [hl k], fun k => by rw [hl k]⟩

theorem exec_sameControl {i : Instr} {t : State} (h : exec i s = .next t) : SameControl s t := by
  have he := exec_effect i s
  rw [h] at he
  cases he with
  | completes w hw =>
    have := hw.sameControl (by simp) (by simp) (by simp) (by simp) (by simp) (by simp)
    have hl : ∀ k, (w.emitTrace s.pc (encode i)).loop k = w.loop k := fun k => by cases k <;> simp [State.loop]
    exact ⟨by simpa using this.agenda, by simpa using this.rounds, by simpa using this.params,
      fun k => by rw [hl]; exact this.queue k, fun k => by rw [hl]; exact this.due k,
      fun k => by rw [hl]; exact this.midPass k⟩
  | raises r _ => exact takeFault_sameControl r s

theorem unimplementedWord_sameControl (w : Word) (s : State) : SameControl s (unimplementedWord w s) := by
  unfold unimplementedWord
  split
  · exact takeFault_sameControl _ s
  · refine ⟨by simp, by simp, by simp, fun k => ?_, fun k => ?_, fun k => ?_⟩ <;> cases k <;> simp [State.loop]

/-- A unit of work of any loop leaves the choices and every queue, tick and pass alone. -/
theorem unitOf_sameControl {l : Loop} {t : State} (h : unitOf l s = .next t) : SameControl s t := by
  cases l with
  | cpu =>
    simp only [unitOf, cpuUnit] at h
    split at h
    · cases h
      exact takeFault_sameControl _ s
    · split at h
      · exact exec_sameControl h
      · cases h
        exact unimplementedWord_sameControl _ s
  | timer =>
    cases h
    exact ⟨rfl, rfl, rfl, fun k => by cases k <;> rfl, fun k => by cases k <;> rfl, fun k => by cases k <;> rfl⟩
  | display =>
    cases h
    exact ⟨rfl, rfl, rfl, fun k => by cases k <;> rfl, fun k => by cases k <;> rfl, fun k => by cases k <;> rfl⟩

end Sys2Proof.Machine
end

