-- ==== Sys2Proof/Laws/PerInstr.lean ====
section
/-! SUPPORT. Family RowBits: the word `encode` gives an instruction has the fixed bits of the instruction's row in
spec/opcode_table.json (its "mask" and "match"). -/

namespace Sys2Proof.Laws.RowBits

/-- The row's "mask". -/
def mask : Instr → Word
  | .sys _ => 0xF000
  | .cls => 0xFFFF
  | .ret => 0xFFFF
  | .jp _ => 0xF000
  | .call _ => 0xF000
  | .seByte _ _ => 0xF000
  | .sneByte _ _ => 0xF000
  | .seReg _ _ => 0xF00F
  | .ldByte _ _ => 0xF000
  | .addByte _ _ => 0xF000
  | .ldReg _ _ => 0xF00F
  | .orReg _ _ => 0xF00F
  | .andReg _ _ => 0xF00F
  | .xorReg _ _ => 0xF00F
  | .addReg _ _ => 0xF00F
  | .subReg _ _ => 0xF00F
  | .shr _ _ => 0xF00F
  | .subnReg _ _ => 0xF00F
  | .shl _ _ => 0xF00F
  | .sneReg _ _ => 0xF00F
  | .ldI _ => 0xF000
  | .jpV0 _ => 0xF000
  | .rnd _ _ => 0xF000
  | .drw _ _ _ => 0xF000
  | .skp _ => 0xF0FF
  | .sknp _ => 0xF0FF
  | .ldVxDT _ => 0xF0FF
  | .ldVxK _ => 0xF0FF
  | .ldDTVx _ => 0xF0FF
  | .ldSTVx _ => 0xF0FF
  | .addI _ => 0xF0FF
  | .ldF _ => 0xF0FF
  | .ldB _ => 0xF0FF
  | .storeRegs _ => 0xF0FF
  | .loadRegs _ => 0xF0FF

/-- The row's "match". -/
def row : Instr → Word
  | .sys _ => 0x0000
  | .cls => 0x00E0
  | .ret => 0x00EE
  | .jp _ => 0x1000
  | .call _ => 0x2000
  | .seByte _ _ => 0x3000
  | .sneByte _ _ => 0x4000
  | .seReg _ _ => 0x5000
  | .ldByte _ _ => 0x6000
  | .addByte _ _ => 0x7000
  | .ldReg _ _ => 0x8000
  | .orReg _ _ => 0x8001
  | .andReg _ _ => 0x8002
  | .xorReg _ _ => 0x8003
  | .addReg _ _ => 0x8004
  | .subReg _ _ => 0x8005
  | .shr _ _ => 0x8006
  | .subnReg _ _ => 0x8007
  | .shl _ _ => 0x800E
  | .sneReg _ _ => 0x9000
  | .ldI _ => 0xA000
  | .jpV0 _ => 0xB000
  | .rnd _ _ => 0xC000
  | .drw _ _ _ => 0xD000
  | .skp _ => 0xE09E
  | .sknp _ => 0xE0A1
  | .ldVxDT _ => 0xF007
  | .ldVxK _ => 0xF00A
  | .ldDTVx _ => 0xF015
  | .ldSTVx _ => 0xF018
  | .addI _ => 0xF01E
  | .ldF _ => 0xF029
  | .ldB _ => 0xF033
  | .storeRegs _ => 0xF055
  | .loadRegs _ => 0xF065

/-- The fixed bits of the row stand in the word. -/
def Statement (i : Instr) : Prop := encode i &&& mask i = row i

theorem wordA_bits (op : Nibble) (nnn : Addr) : wordA op nnn &&& 0xF000 = wordA op 0 := by
  apply BitVec.eq_of_getLsbD_eq
  intro k hk
  simp only [wordA, BitVec.getLsbD_and, BitVec.getLsbD_append]
  interval_cases k <;> simp

theorem wordXK_bits (op x : Nibble) (kk : Byte) : wordXK op x kk &&& 0xF000 = wordXK op 0 0 := by
  apply BitVec.eq_of_getLsbD_eq
  intro k hk
  simp only [wordXK, BitVec.getLsbD_and, BitVec.getLsbD_append]
  interval_cases k <;> simp

theorem wordXK_sub_bits (op x : Nibble) (kk : Byte) : wordXK op x kk &&& 0xF0FF = wordXK op 0 kk := by
  apply BitVec.eq_of_getLsbD_eq
  intro k hk
  simp only [wordXK, BitVec.getLsbD_and, BitVec.getLsbD_append]
  interval_cases k <;> simp

theorem wordXYN_bits (op x y n : Nibble) : wordXYN op x y n &&& 0xF000 = wordXYN op 0 0 0 := by
  apply BitVec.eq_of_getLsbD_eq
  intro k hk
  simp only [wordXYN, BitVec.getLsbD_and, BitVec.getLsbD_append]
  interval_cases k <;> simp

theorem wordXYN_sub_bits (op x y n : Nibble) : wordXYN op x y n &&& 0xF00F = wordXYN op 0 0 n := by
  apply BitVec.eq_of_getLsbD_eq
  intro k hk
  simp only [wordXYN, BitVec.getLsbD_and, BitVec.getLsbD_append]
  interval_cases k <;> simp

theorem sys (nnn : Addr) : Statement (.sys nnn) :=
  wordA_bits _ _
theorem cls : Statement (.cls) := rfl
theorem ret : Statement (.ret) := rfl
theorem jp (nnn : Addr) : Statement (.jp nnn) :=
  wordA_bits _ _
theorem call (nnn : Addr) : Statement (.call nnn) :=
  wordA_bits _ _
theorem seByte (x : Nibble) (kk : Byte) : Statement (.seByte x kk) :=
  wordXK_bits _ _ _
theorem sneByte (x : Nibble) (kk : Byte) : Statement (.sneByte x kk) :=
  wordXK_bits _ _ _
theorem seReg (x : Nibble) (y : Nibble) : Statement (.seReg x y) :=
  wordXYN_sub_bits _ _ _ _
theorem ldByte (x : Nibble) (kk : Byte) : Statement (.ldByte x kk) :=
  wordXK_bits _ _ _
theorem addByte (x : Nibble) (kk : Byte) : Statement (.addByte x kk) :=
  wordXK_bits _ _ _
theorem ldReg (x : Nibble) (y : Nibble) : Statement (.ldReg x y) :=
  wordXYN_sub_bits _ _ _ _
theorem orReg (x : Nibble) (y : Nibble) : Statement (.orReg x y) :=
  wordXYN_sub_bits _ _ _ _
theorem andReg (x : Nibble) (y : Nibble) : Statement (.andReg x y) :=
  wordXYN_sub_bits _ _ _ _
theorem xorReg (x : Nibble) (y : Nibble) : Statement (.xorReg x y) :=
  wordXYN_sub_bits _ _ _ _
theorem addReg (x : Nibble) (y : Nibble) : Statement (.addReg x y) :=
  wordXYN_sub_bits _ _ _ _
theorem subReg (x : Nibble) (y : Nibble) : Statement (.subReg x y) :=
  wordXYN_sub_bits _ _ _ _
theorem shr (x : Nibble) (y : Nibble) : Statement (.shr x y) :=
  wordXYN_sub_bits _ _ _ _
theorem subnReg (x : Nibble) (y : Nibble) : Statement (.subnReg x y) :=
  wordXYN_sub_bits _ _ _ _
theorem shl (x : Nibble) (y : Nibble) : Statement (.shl x y) :=
  wordXYN_sub_bits _ _ _ _
theorem sneReg (x : Nibble) (y : Nibble) : Statement (.sneReg x y) :=
  wordXYN_sub_bits _ _ _ _
theorem ldI (nnn : Addr) : Statement (.ldI nnn) :=
  wordA_bits _ _
theorem jpV0 (nnn : Addr) : Statement (.jpV0 nnn) :=
  wordA_bits _ _
theorem rnd (x : Nibble) (kk : Byte) : Statement (.rnd x kk) :=
  wordXK_bits _ _ _
theorem drw (x : Nibble) (y : Nibble) (n : Nibble) : Statement (.drw x y n) :=
  wordXYN_bits _ _ _ _
theorem skp (x : Nibble) : Statement (.skp x) :=
  wordXK_sub_bits _ _ _
theorem sknp (x : Nibble) : Statement (.sknp x) :=
  wordXK_sub_bits _ _ _
theorem ldVxDT (x : Nibble) : Statement (.ldVxDT x) :=
  wordXK_sub_bits _ _ _
theorem ldVxK (x : Nibble) : Statement (.ldVxK x) :=
  wordXK_sub_bits _ _ _
theorem ldDTVx (x : Nibble) : Statement (.ldDTVx x) :=
  wordXK_sub_bits _ _ _
theorem ldSTVx (x : Nibble) : Statement (.ldSTVx x) :=
  wordXK_sub_bits _ _ _
theorem addI (x : Nibble) : Statement (.addI x) :=
  wordXK_sub_bits _ _ _
theorem ldF (x : Nibble) : Statement (.ldF x) :=
  wordXK_sub_bits _ _ _
theorem ldB (x : Nibble) : Statement (.ldB x) :=
  wordXK_sub_bits _ _ _
theorem storeRegs (x : Nibble) : Statement (.storeRegs x) :=
  wordXK_sub_bits _ _ _
theorem loadRegs (x : Nibble) : Statement (.loadRegs x) :=
  wordXK_sub_bits _ _ _

end Sys2Proof.Laws.RowBits
end

