-- ==== Sys2Proof/Tests/Slice0.lean ====
section
/-! SUPPORT. The model's own tests: ill-formed terms, one written-out word per constructor, one or two single steps per
instruction with the results of 95_test_vectors.md (V<n>, E<n>), and a witness for every statement that has
hypotheses. -/

namespace Sys2Proof.Tests

open Sys2Proof Sys2Proof.Machine Sys2Proof.Config

/-! ### Helpers -/

/-- The state after reset (10_state.md R51). -/
def s0 : State := State.reset

/-- The next state, if there is one. -/
def nextOf : Host.Outcome State Fault Refusal → Option State
  | .next t => some t
  | .fault _ => none
  | .refused _ => none

/-- One step on the word `w` placed at pc. -/
def after (w : Nat) (s : State) : Option State := nextOf (step (s.withFetchWord 16 w))

/-- Registers set from a list. -/
def regs (l : List (Nibble × Byte)) (s : State) : State := l.foldl (fun t p => t.setReg p.1 p.2) s

/-- Bytes stored. -/
def bytes (a : Nat) (l : List Byte) (s : State) : State := s.storeBytes a l

/-- A value read from the state after one step on `w`. -/
def obs {α : Type} (w : Nat) (s : State) (f : State → α) : Option α := (after w s).map f

/-- The fault record and whether the CPU loop is stopped. -/
def faultOf (t : State) : Byte × Word × Word × RunFlag :=
  (t.fault.cause, t.fault.pc, t.fault.info, t.cpuLoop.run)

/-! ### WellFormed: SYS does not take the words of CLS and RET (30_encoding.md R105) -/

theorem test_wf_sys_not_cls : (Instr.sys 0x0E0).wf = false := by decide
theorem test_wf_sys_not_ret : (Instr.sys 0x0EE).wf = false := by decide
theorem test_wf_sys_other : (Instr.sys 0x0E1).wf = true := by decide

/-! ### Decoding: a word written out bit by bit from 30_encoding.md R103, R106 for every constructor -/

theorem test_decode_sys : decode 0b0000_0001_0010_0011#16 = .op (.sys 0x123) := by decide
theorem test_decode_cls : decode 0b0000_0000_1110_0000#16 = .op .cls := by decide
theorem test_decode_ret : decode 0b0000_0000_1110_1110#16 = .op .ret := by decide
theorem test_decode_jp : decode 0b0001_1010_1011_1100#16 = .op (.jp 0xABC) := by decide
theorem test_decode_call : decode 0b0010_0011_0001_0100#16 = .op (.call 0x314) := by decide
theorem test_decode_seByte : decode 0b0011_0011_0100_0010#16 = .op (.seByte 3 0x42) := by decide
theorem test_decode_sneByte : decode 0b0100_0011_0100_0010#16 = .op (.sneByte 3 0x42) := by decide
theorem test_decode_seReg : decode 0b0101_0001_0010_0000#16 = .op (.seReg 1 2) := by decide
theorem test_decode_ldByte : decode 0b0110_1010_0111_1111#16 = .op (.ldByte 0xA 0x7F) := by decide
theorem test_decode_addByte : decode 0b0111_1010_0000_0010#16 = .op (.addByte 0xA 0x02) := by decide
theorem test_decode_ldReg : decode 0b1000_0001_0010_0000#16 = .op (.ldReg 1 2) := by decide
theorem test_decode_orReg : decode 0b1000_0001_0010_0001#16 = .op (.orReg 1 2) := by decide
theorem test_decode_andReg : decode 0b1000_0001_0010_0010#16 = .op (.andReg 1 2) := by decide
theorem test_decode_xorReg : decode 0b1000_0001_0010_0011#16 = .op (.xorReg 1 2) := by decide
theorem test_decode_addReg : decode 0b1000_1111_0001_0100#16 = .op (.addReg 0xF 1) := by decide
theorem test_decode_subReg : decode 0b1000_0001_0010_0101#16 = .op (.subReg 1 2) := by decide
theorem test_decode_shr : decode 0b1000_0100_0000_0110#16 = .op (.shr 4 0) := by decide
theorem test_decode_subnReg : decode 0b1000_0001_0010_0111#16 = .op (.subnReg 1 2) := by decide
theorem test_decode_shl : decode 0b1000_0001_0010_1110#16 = .op (.shl 1 2) := by decide
theorem test_decode_sneReg : decode 0b1001_0001_0010_0000#16 = .op (.sneReg 1 2) := by decide
theorem test_decode_ldI : decode 0b1010_0001_0010_0011#16 = .op (.ldI 0x123) := by decide
theorem test_decode_jpV0 : decode 0b1011_0011_0000_0000#16 = .op (.jpV0 0x300) := by decide
theorem test_decode_rnd : decode 0b1100_0011_0000_1111#16 = .op (.rnd 3 0x0F) := by decide
theorem test_decode_drw : decode 0b1101_1011_1100_0101#16 = .op (.drw 0xB 0xC 5) := by decide
theorem test_decode_skp : decode 0b1110_0101_1001_1110#16 = .op (.skp 5) := by decide
theorem test_decode_sknp : decode 0b1110_0101_1010_0001#16 = .op (.sknp 5) := by decide
theorem test_decode_ldVxDT : decode 0b1111_0010_0000_0111#16 = .op (.ldVxDT 2) := by decide
theorem test_decode_ldVxK : decode 0b1111_0011_0000_1010#16 = .op (.ldVxK 3) := by decide
theorem test_decode_ldDTVx : decode 0b1111_0001_0001_0101#16 = .op (.ldDTVx 1) := by decide
theorem test_decode_ldSTVx : decode 0b1111_0001_0001_1000#16 = .op (.ldSTVx 1) := by decide
theorem test_decode_addI : decode 0b1111_0010_0001_1110#16 = .op (.addI 2) := by decide
theorem test_decode_ldF : decode 0b1111_0100_0010_1001#16 = .op (.ldF 4) := by decide
theorem test_decode_ldB : decode 0b1111_0000_0011_0011#16 = .op (.ldB 0) := by decide
theorem test_decode_storeRegs : decode 0b1111_0010_0101_0101#16 = .op (.storeRegs 2) := by decide
theorem test_decode_loadRegs : decode 0b1111_0010_0110_0101#16 = .op (.loadRegs 2) := by decide

/-- V1.7, V1.5. -/
theorem test_decode_unimplemented :
    decode 0x8008 = .unimplemented 0x8008 ∧ decode 0x800F = .unimplemented 0x800F ∧
    decode 0xE000 = .unimplemented 0xE000 ∧ decode 0xF000 = .unimplemented 0xF000 ∧
    decode 0xF0FF = .unimplemented 0xF0FF ∧ decode 0x5121 = .unimplemented 0x5121 := by decide

/-- V1.8. -/
theorem test_decode_sys_space :
    decode 0x0000 = .op (.sys 0) ∧ decode 0x0123 = .op (.sys 0x123) ∧ decode 0x00E1 = .op (.sys 0xE1) ∧
    decode 0x00EF = .op (.sys 0xEF) := by decide

/-- Bytes are big-endian (V1.1), and one byte is no instruction. -/
theorem test_decode_bytes :
    decodeBytes [0x60, 0x05, 0x30] = .op (.ldByte 0 5) [0x30] ∧ decodeBytes [0x60] = .truncated := by decide

/-! ### The execution cycle -/

/-- V1.2: an odd pc is legal. -/
theorem test_odd_pc : obs 0x6A07 { s0 with pc := 0x201 } (fun t => (t.reg 0xA, t.pc)) = some (0x07, 0x203) := by decide
/-- V1.3: the last word that can be fetched. -/
theorem test_fetch_last : obs 0x00E0 { s0 with pc := 0xFFE } (fun t => (t.pc, t.fault.cause)) = some (0x1000, 0) := by
  decide
/-- V1.4. -/
theorem test_fetch_fault : obs 0x00E0 { s0 with pc := 0xFFF } (fun t => (t.pc, faultOf t)) =
    some (0xFFF, 1, 0xFFF, 0xFFF, .stopped) := by decide
/-- V1.5. -/
theorem test_unimplemented_fault : obs 0x5121 s0 (fun t => (t.pc, faultOf t)) =
    some (0x200, 6, 0x200, 0x5121, .stopped) := by decide
/-- V1.6. -/
theorem test_unimplemented_continue :
    obs 0x5121 { s0 with params := { defaultParams with unimplPolicy := .continues } }
      (fun t => (t.unimpl, t.pc, t.fault.cause, t.out)) =
    some ({ seen := true, pc := 0x200, word := 0x5121 }, 0x202, 0,
      [.trace 0x200 0x5121, .unimplReport 0x200 0x5121]) := by decide

/-! ### Control flow (V2) -/

theorem test_sys : obs 0x0234 s0 (fun t => (t.pc, t.sp, t.fault.cause, t.unimpl.seen)) = some (0x202, 0, 0, false) := by
  decide
theorem test_jp : obs 0x1ABC s0 State.pc = some 0xABC := by decide
theorem test_jp_self : obs 0x1200 s0 State.pc = some 0x200 := by decide
theorem test_call : obs 0x2300 s0 (fun t => (t.sp, t.stackEntry 1, t.pc)) = some (1, some 0x202, 0x300) := by decide
theorem test_call_overflow : obs 0x2300 { s0 with sp := 15 } (fun t => (t.sp, t.pc, faultOf t)) =
    some (15, 0x200, 3, 0x200, 15, .stopped) := by decide
theorem test_ret : obs 0x00EE { s0 with pc := 0x300, sp := 1, stack := s0.stack.set 1 0x202 }
    (fun t => (t.pc, t.sp, t.stackEntry 1)) = some (0x202, 0, some 0x202) := by decide
theorem test_ret_underflow : obs 0x00EE s0 (fun t => (t.pc, faultOf t, t.out)) =
    some (0x200, (4, 0x200, 0, .stopped), [.faultReport 4 0x200 0]) := by decide
theorem test_seByte_skip : obs 0x3342 (regs [(3, 0x42)] s0) State.pc = some 0x204 := by decide
theorem test_seByte_no : obs 0x3342 (regs [(3, 0x41)] s0) State.pc = some 0x202 := by decide
theorem test_sneByte_skip : obs 0x4342 (regs [(3, 0x41)] s0) State.pc = some 0x204 := by decide
theorem test_sneByte_no : obs 0x4342 (regs [(3, 0x42)] s0) State.pc = some 0x202 := by decide
theorem test_seReg_skip : obs 0x5120 (regs [(1, 7), (2, 7)] s0) State.pc = some 0x204 := by decide
theorem test_seReg_no : obs 0x5120 (regs [(1, 7), (2, 8)] s0) State.pc = some 0x202 := by decide
theorem test_sneReg_skip : obs 0x9120 (regs [(1, 7), (2, 8)] s0) State.pc = some 0x204 := by decide
theorem test_sneReg_same : obs 0x9110 (regs [(1, 7)] s0) State.pc = some 0x202 := by decide
theorem test_jpV0 : obs 0xB300 (regs [(0, 0x10)] s0) State.pc = some 0x310 := by decide
theorem test_jpV0_past_end : obs 0xBFFF (regs [(0, 0xFF)] s0) State.pc = some 0x10FE := by decide

/-! ### Register arithmetic (V3) -/

theorem test_ldByte : obs 0x6A7F s0 (fun t => (t.reg 0xA, t.pc)) = some (0x7F, 0x202) := by decide
theorem test_addByte : obs 0x7A02 (regs [(0xA, 0xFF), (0xF, 5)] s0) (fun t => (t.reg 0xA, t.reg 0xF)) = some (1, 5) := by
  decide
theorem test_ldReg : obs 0x8120 (regs [(1, 0x11), (2, 0x22)] s0) (fun t => (t.reg 1, t.reg 2)) = some (0x22, 0x22) := by
  decide
theorem test_or : obs 0x8121 (regs [(1, 0xC), (2, 0xA)] s0) (fun t => (t.reg 1, t.reg 0xF)) = some (0xE, 0) := by decide
theorem test_and : obs 0x8122 (regs [(1, 0xC), (2, 0xA)] s0) (fun t => (t.reg 1, t.reg 0xF)) = some (8, 0) := by decide
theorem test_xor : obs 0x8123 (regs [(1, 0xC), (2, 0xA)] s0) (fun t => (t.reg 1, t.reg 0xF)) = some (6, 0) := by decide
theorem test_addReg_carry : obs 0x8124 (regs [(1, 0xFF), (2, 1)] s0) (fun t => (t.reg 1, t.reg 0xF)) = some (0, 1) := by
  decide
theorem test_addReg_into_vf : obs 0x8F14 (regs [(0xF, 0x10), (1, 0xF0)] s0) (fun t => t.reg 0xF) = some 1 := by decide
theorem test_sub_borrow : obs 0x8125 (regs [(1, 3), (2, 5)] s0) (fun t => (t.reg 1, t.reg 0xF)) = some (0xFE, 0) := by
  decide
theorem test_sub_withheld :
    obs 0x8125 (regs [(1, 3), (2, 5)] { s0 with params := { defaultParams with subWrite := .writeIfNoBorrow } })
      (fun t => (t.reg 1, t.reg 0xF)) = some (3, 0) := by decide
theorem test_shr_same : obs 0x8116 (regs [(1, 0x81)] s0) (fun t => (t.reg 1, t.reg 0xF)) = some (0x40, 1) := by decide
theorem test_shr_into_vf : obs 0x8F06 (regs [(0xF, 3)] s0) (fun t => t.reg 0xF) = some 1 := by decide
theorem test_subn : obs 0x8127 (regs [(1, 3), (2, 5)] s0) (fun t => (t.reg 1, t.reg 0xF)) = some (2, 1) := by decide
theorem test_subn_borrow : obs 0x8127 (regs [(1, 1), (2, 0)] s0) (fun t => (t.reg 1, t.reg 0xF)) = some (0xFF, 0) := by
  decide
theorem test_shl_out : obs 0x810E (regs [(1, 0x80)] s0) (fun t => (t.reg 1, t.reg 0xF)) = some (0, 1) := by decide
theorem test_shl_in : obs 0x810E (regs [(1, 0x40)] s0) (fun t => (t.reg 1, t.reg 0xF)) = some (0x80, 0) := by decide
theorem test_rnd : obs 0xC30F { s0 with draws := [0xA5] } (fun t => (t.reg 3, t.draws)) = some (5, []) := by decide

/-! ### Display (V4) -/

/-- V4.10 drawn first, then V4.1. -/
theorem test_cls : ((after 0xD005 s0).bind (after 0x00E0)).map (fun t => (t.fb.pixel 0 0, t.fb.pixel 3 2, t.reg 0xF)) =
    some (false, false, 0) := by decide
/-- V4.3: x wraps within the row. -/
theorem test_drw_wraps :
    obs 0xD011 (bytes 0x300 [0xC0] (regs [(0, 0x3F)] { s0 with iReg := 0x300 }))
      (fun t => (t.fb.pixel 63 0, t.fb.pixel 0 0, t.fb.pixel 1 0, t.reg 0xF)) = some (true, true, false, 0) := by decide
/-- E5: the second draw clears and collides. -/
theorem test_drw_twice :
    ((after 0xD011 (bytes 0x300 [0xFF] { s0 with iReg := 0x300 })).bind (after 0xD011)).map
      (fun t => ((List.range 8).map (fun c => t.fb.pixel c 0), t.reg 0xF)) = some (List.replicate 8 false, 1) := by
  decide

/-! ### Keys and timers (V5) -/

theorem test_skp_held : obs 0xE19E (regs [(1, 5)] { s0 with keys := 0x20 }) State.pc = some 0x204 := by decide
theorem test_skp_fault : obs 0xE19E (regs [(1, 0x10)] s0) (fun t => (t.pc, faultOf t)) =
    some (0x200, 5, 0x200, 0x10, .stopped) := by decide
theorem test_sknp_held : obs 0xE1A1 (regs [(1, 5)] { s0 with keys := 0x20 }) State.pc = some 0x202 := by decide
theorem test_sknp_not_held : obs 0xE1A1 (regs [(1, 5)] s0) State.pc = some 0x204 := by decide
theorem test_ldVxDT : obs 0xF507 { s0 with dt := 0x2A } (fun t => (t.reg 5, t.dt)) = some (0x2A, 0x2A) := by decide
theorem test_ldVxK_waits : obs 0xF30A s0 (fun t => (t.pc, t.reg 3, t.out)) =
    some (0x200, 0, [.trace 0x200 0xF30A]) := by decide
theorem test_ldVxK_lowest : obs 0xF30A (regs [(3, 9)] { s0 with keys := 0x8081 }) (fun t => (t.pc, t.reg 3)) =
    some (0x202, 0) := by decide
theorem test_ldDTVx : obs 0xF215 (regs [(2, 0x3C)] s0) (fun t => (t.dt, t.st)) = some (0x3C, 0) := by decide
theorem test_ldSTVx : obs 0xF218 (regs [(2, 1)] s0) (fun t => (t.st, t.dt, t.soundOn)) = some (1, 0, true) := by decide

/-! ### The address register and transfers (V6) -/

theorem test_ldI : obs 0xA123 s0 State.iReg = some 0x123 := by decide
theorem test_addI_kept : obs 0xF21E (regs [(2, 1)] { s0 with iReg := 0xFFF }) (fun t => (t.iReg, t.reg 0xF)) =
    some (0x1000, 0) := by decide
theorem test_addI_wraps : obs 0xF21E (regs [(2, 1)] { s0 with iReg := 0xFFFF }) State.iReg = some 0 := by decide
theorem test_ldF : obs 0xF429 (regs [(4, 0x1F)] s0) State.iReg = some 0x4B := by decide
theorem test_ldB : obs 0xF033 (regs [(0, 0x9C)] { s0 with iReg := 0x300 })
    (fun t => (t.byteAt 0x300, t.byteAt 0x301, t.byteAt 0x302, t.iReg)) = some (1, 5, 6, 0x300) := by decide
theorem test_ldB_fault : obs 0xF033 (regs [(0, 0x9C)] { s0 with iReg := 0xFFE })
    (fun t => (t.byteAt 0xFFE, t.pc, faultOf t)) = some (0, 0x200, 2, 0x200, 0x1000, .stopped) := by decide
theorem test_storeRegs : obs 0xF255 (regs [(0, 0x11), (1, 0x22), (2, 0x33), (3, 0x44)] { s0 with iReg := 0x400 })
    (fun t => (t.byteAt 0x400, t.byteAt 0x401, t.byteAt 0x402, t.byteAt 0x403, t.iReg)) =
    some (0x11, 0x22, 0x33, 0, 0x400) := by decide
theorem test_storeRegs_fault : obs 0xFF55 (regs [(0, 0x11)] { s0 with iReg := 0xFF1 })
    (fun t => (t.byteAt 0xFF1, faultOf t)) = some (0, 2, 0x200, 0x1000, .stopped) := by decide
theorem test_loadRegs :
    obs 0xF265 (regs [(3, 0x44)] (bytes 0x400 [0x11, 0x22, 0x33, 0x55] { s0 with iReg := 0x400 }))
      (fun t => (t.reg 0, t.reg 1, t.reg 2, t.reg 3, t.iReg)) = some (0x11, 0x22, 0x33, 0x44, 0x400) := by decide
theorem test_loadRegs_fault : obs 0xF065 { s0 with iReg := 0x1000 } faultOf = some (2, 0x200, 0x1000, .stopped) := by
  decide

/-! ### The multiplexer (V7, E8, E9) and the host's transactions -/

/-- One step of a state whose environment has chosen `a` next. -/
def act (a : Action) (s : State) : Option State := nextOf (step { s with agenda := [a] })

/-- E9: Step while Stopped does one unit and leaves the flag Stopped. -/
theorem test_step_while_stopped :
    ((act (.host (.send .cpu .step)) (bytes 0x200 [0x60, 0x05] s0)).bind (act (.pass .cpu))).map
      (fun t => (t.pc, t.reg 0, t.cpuLoop.run, t.cpuLoop.queue)) = some (0x202, 5, .stopped, []) := by decide
/-- V7.4: A applies Start, then B does one step. -/
theorem test_start_then_tick :
    (((act (.host (.send .cpu .start)) s0).bind (act (.host (.trigger .cpu)))).bind (act (.pass .cpu))).map
      (fun t => (t.pc, t.cpuLoop.run, t.cpuLoop.midPass)) = some (0x200, .running, true) := by decide
/-- The schedule of two CPU steps, and a round completed with the passes it leaves out (60_exceptions.md R333). -/
theorem test_cpu_steps_schedule : cpuSteps 2 = [.host (.trigger .cpu), .pass .cpu, .host (.trigger .cpu), .pass .cpu] ∧
    (fairRound [.pass .timer, .host .readStatus]) = (.pass .timer, [.host .readStatus, .pass .cpu, .pass .display]) := by
  decide
/-- E8, V5.14: DT stays at 0. -/
theorem test_timer_unit :
    (act (.pass .timer) { s0 with st := 5, timerLoop := { s0.timerLoop with run := .running, due := true } }).map
      (fun t => (t.dt, t.st, t.timerLoop.due)) = some (0, 4, false) := by decide
/-- E11: a load writes from 0x200 on. -/
theorem test_load : (act (.host (.load [0x60, 0x05])) s0).map (fun t => (t.byteAt 0x200, t.byteAt 0x201, t.out)) =
    some (0x60, 0x05, [.loaded .ok]) := by decide
/-- 60_exceptions.md R336: a key outside 0 to 15 is refused. -/
theorem test_key_refused : (act (.host (.keySet 16)) s0).map (fun t => (t.keys, t.out)) =
    some (0, [.keyRefused 16]) := by decide

/-! ### Witnesses: a state and operands meeting the hypotheses of each statement, clause by clause -/

/-- Key opcodes stubbed. -/
def stubbed : State := { s0 with params := { defaultParams with keyMode := .stubbed } }

/-- A state whose environment has chosen `a`. -/
def chose (a : Action) (s : State) : State := { s with agenda := [a] }

/-- A loop with a message queued and a tick due. -/
def loaded (m : Msg) : LoopState := { run := .running, queue := [m], due := true, midPass := false }

theorem witness_encoding : (Instr.sys 0x000).wf = true ∧ (Instr.sys 0xFFF).wf = true ∧ (Instr.drw 0xF 0xF 0xF).wf = true ∧
    decode 0xFF65 = .op (.loadRegs 0xF) ∧ decode 0x5120 = .op (.seReg 1 2) ∧
    decode 0x5121 = .unimplemented 0x5121 := by decide

theorem witness_fetch : ({ s0 with pc := 0xFFE } : State).pc.toNat + 1 ≤ 0xFFF ∧
    0xFFF < ({ s0 with pc := 0xFFF } : State).pc.toNat + 1 := by decide

/-- The instruction at pc is `i`. -/
abbrev Fetches (s : State) (i : Instr) : Prop :=
  s.pc.toNat + 1 ≤ 0xFFF ∧ decode (wordOfBytes (s.byteAt s.pc.toNat) (s.byteAt (s.pc.toNat + 1))) = .op i

/-- Memory after reset holds SYS 0x000 at 0x200. -/
theorem witness_step_runs : Fetches s0 (.sys 0) := by decide

theorem witness_step_runs_message :
    let s := chose (.pass .cpu) { s0 with cpuLoop := loaded .step }
    Fetches s (.sys 0) ∧ s.agenda = [.pass .cpu] ∧ s.cpuLoop.midPass = false ∧ s.cpuLoop.queue = [.step] := by decide

theorem witness_step_runs_tick :
    let s := chose (.pass .cpu) { s0 with cpuLoop := { run := .running, queue := [], due := true, midPass := false } }
    Fetches s (.sys 0) ∧ s.agenda = [.pass .cpu] ∧ s.cpuLoop.run = .running ∧ s.cpuLoop.queue = [] ∧
    s.cpuLoop.due = true := by decide

theorem witness_step_runs_midPass :
    let s := chose (.pass .cpu) { s0 with cpuLoop := { run := .running, queue := [], due := true, midPass := true } }
    Fetches s (.sys 0) ∧ s.agenda = [.pass .cpu] ∧ s.cpuLoop.run = .running ∧ s.cpuLoop.midPass = true := by decide

theorem witness_step_runs_round : Fetches s0 (.sys 0) ∧ s0.agenda = [] := by decide

/-- The host's word is the one the next step runs. -/
theorem witness_withFetchWord :
    let s := s0.withFetchWord 16 0xD015
    Fetches s (.drw 0 1 5) ∧ s.agenda = [.pass .cpu] ∧ s.cpuLoop.run = .running ∧ s.cpuLoop.queue = [] ∧
    s.cpuLoop.due = true := by decide

/-- A state with the unimplemented word 0x5121 at pc, under a policy. -/
def unimplAt (p : UnimplPolicy) : State :=
  bytes 0x200 [0x51, 0x21] { s0 with params := { defaultParams with unimplPolicy := p } }

theorem witness_unimplemented (p : UnimplPolicy) :
    fetch16 (unimplAt p) = .ok 0x5121 ∧ decode 0x5121 = .unimplemented 0x5121 ∧
    (unimplAt p).params.unimplPolicy = p := by
  refine ⟨?_, by decide, rfl⟩
  rw [fetch16_ok (by change (0x200 : Nat) + 1 ≤ 0xFFF; decide)]
  cases p <;> exact congrArg _ (by decide)

/-- Each cause of 60_exceptions.md R311, taken by a CPU unit of work. -/
theorem witness_fault_fetch : ∃ t, cpuUnit { s0 with pc := 0xFFF } = .next t ∧ FaultEntry 1 0xFFF { s0 with pc := 0xFFF } t :=
  ⟨_, rfl, takeFault_entry ⟨.fetchAddr, 0xFFF⟩ _⟩

theorem witness_fault_unimplemented :
    ∃ t, cpuUnit (unimplAt .faults) = .next t ∧ FaultEntry 6 0x5121 (unimplAt .faults) t :=
  ⟨_, rfl, takeFault_entry ⟨.unimplemented, 0x5121⟩ _⟩

theorem witness_fault_overflow :
    ∃ t, cpuUnit (bytes 0x200 [0x22, 0x00] { s0 with sp := 15 }) = .next t ∧
      FaultEntry 3 15 (bytes 0x200 [0x22, 0x00] { s0 with sp := 15 }) t :=
  ⟨_, rfl, takeFault_entry ⟨.stackOverflow, 15⟩ _⟩

theorem witness_fault_underflow :
    ∃ t, cpuUnit (bytes 0x200 [0x00, 0xEE] s0) = .next t ∧ FaultEntry 4 0 (bytes 0x200 [0x00, 0xEE] s0) t :=
  ⟨_, rfl, takeFault_entry ⟨.stackUnderflow, 0⟩ _⟩

theorem witness_fault_data :
    ∃ t, cpuUnit (bytes 0x200 [0xFF, 0x55] { s0 with iReg := 0xFF1 }) = .next t ∧
      FaultEntry 2 0x1000 (bytes 0x200 [0xFF, 0x55] { s0 with iReg := 0xFF1 }) t :=
  ⟨_, rfl, takeFault_entry ⟨.dataAddr, 0x1000⟩ _⟩

theorem witness_fault_key :
    ∃ t, cpuUnit (bytes 0x200 [0xE1, 0x9E] (regs [(1, 0x10)] s0)) = .next t ∧
      FaultEntry 5 0x10 (bytes 0x200 [0xE1, 0x9E] (regs [(1, 0x10)] s0)) t :=
  ⟨_, rfl, takeFault_entry ⟨.keyIndex, 0x10⟩ _⟩

theorem witness_cpuUnit_completes : ∃ t, cpuUnit s0 = .next t := ⟨_, rfl⟩

theorem witness_call : s0.sp.toNat < 15 ∧ ({ s0 with sp := 14 } : State).sp.toNat < 15 ∧
    ({ s0 with sp := 15 } : State).sp = 15 := by decide

theorem witness_ret : ({ s0 with sp := 1 } : State).sp.toNat < 16 ∧ 0 < ({ s0 with sp := 1 } : State).sp.toNat ∧
    ({ s0 with sp := 15 } : State).sp.toNat < 16 ∧ 0 < ({ s0 with sp := 15 } : State).sp.toNat ∧ s0.sp = 0 := by decide

theorem witness_illegal_sp : 15 < ({ s0 with sp := 16 } : State).sp.toNat ∧
    15 < ({ s0 with sp := 255 } : State).sp.toNat := by decide

theorem witness_ret_undoes_call : ∃ t, ({ s0 with sp := 14 } : State).sp.toNat < 15 ∧
    exec (.call 0x300) { s0 with sp := 14 } = .next t := ⟨_, by decide, rfl⟩

theorem witness_sub_policies : s0.params.subWrite = .writeAlways ∧
    ({ s0 with params := { defaultParams with subWrite := .writeIfNoBorrow } } : State).params.subWrite =
      .writeIfNoBorrow := by decide

theorem witness_rnd : ({ s0 with draws := [0xA5, 1] } : State).draws = 0xA5 :: [1] ∧ s0.draws = [] := by decide

/-- DRW: the last sprite in memory, the first that is not, height 0, a covered pixel, a collision. -/
theorem witness_drw_bounds :
    (3 : Nibble) ≠ 0 ∧ 0xFFF < ({ s0 with iReg := 0xFFE } : State).iReg.toNat + ((3 : Nibble).toNat - 1) ∧
    ({ s0 with iReg := 0xFFD } : State).iReg.toNat + ((3 : Nibble).toNat - 1) ≤ 0xFFF := by decide

theorem witness_drw_covers : SpriteCovers s0 0 1 5 3 0 ∧ s0.fb.pixel 3 0 = false := by
  refine ⟨⟨0, 3, by decide, by decide, by decide, by decide, by decide⟩, by decide⟩

theorem witness_drw_collides : ∃ t, exec (.drw 0 1 5) s0 = .next t ∧ SpriteCovers t 0 1 5 3 0 ∧ t.fb.pixel 3 0 = true :=
  ⟨_, rfl, ⟨0, 3, by decide, by decide, by decide, by decide, by decide⟩, by decide⟩

theorem witness_drw_not_covered : ¬ SpriteCovers s0 0 1 5 4 0 := by
  rintro ⟨r, c, hr, hc, -, hx, hb⟩
  have h0 : (s0.reg 0).toNat = 0 := by decide
  rw [h0] at hx
  obtain rfl : c = 4 := by omega
  have : ∀ r, r < 5 → (s0.byteAt (s0.iReg.toNat + r)).getLsbD (7 - 4) ≠ true := by decide
  exact this r hr hb

theorem witness_drawing_twice : ∃ t, (0 : Nibble) ≠ 0xF ∧ (1 : Nibble) ≠ 0xF ∧
    s0.iReg.toNat + ((5 : Nibble).toNat - 1) ≤ 0xFFF ∧ exec (.drw 0 1 5) s0 = .next t :=
  ⟨_, by decide, by decide, by decide, rfl⟩

theorem witness_key_skips : s0.params.keyMode = .implemented ∧ ((regs [(1, 15)] s0).reg 1).toNat ≤ 15 ∧
    15 < ((regs [(1, 16)] s0).reg 1).toNat ∧ (regs [(1, 16)] s0).params.keyMode = .implemented := by decide

theorem witness_key_wait : s0.params.keyMode = .implemented ∧ s0.keys = 0 ∧ ({ s0 with keys := 0x8000 } : State).keys.getLsbD 15 = true ∧
    (∀ j, j < 15 → ({ s0 with keys := 0x8000 } : State).keys.getLsbD j = false) ∧
    ({ s0 with keys := 0x8081 } : State).keys.getLsbD 0 = true := by decide

theorem witness_stubbed : stubbed.params.keyMode = .stubbed := by decide

/-- Whatever I is, memory after reset is in canonical form. -/
theorem witness_transfers_wf (a : Word) :
    Memory.wf ({ s0 with iReg := a } : State).params.font ({ s0 with iReg := a } : State).mem :=
  show Memory.wf s0.params.font s0.mem by decide

/-- The block transfers at the top of memory. -/
theorem witness_transfers :
    ({ s0 with iReg := 0xFFD } : State).iReg.toNat + 2 ≤ 0xFFF ∧ 0xFFF < ({ s0 with iReg := 0xFFE } : State).iReg.toNat + 2 ∧
    ({ s0 with iReg := 0xFF0 } : State).iReg.toNat + (0xF : Nibble).toNat ≤ 0xFFF ∧
    0xFFF < ({ s0 with iReg := 0xFF1 } : State).iReg.toNat + (0xF : Nibble).toNat ∧
    0xFFF < ({ s0 with iReg := 0x1000 } : State).iReg.toNat + (0 : Nibble).toNat := by decide

theorem witness_round_trip : ∃ t, Memory.wf s0.params.font s0.mem ∧ s0.iReg.toNat + (0xF : Nibble).toNat ≤ 0xFFF ∧
    exec (.storeRegs 0xF) s0 = .next t ∧ t.iReg = t.iReg ∧
    ∀ k, k ≤ (0xF : Nibble).toNat → t.byteAt (s0.iReg.toNat + k) = t.byteAt (s0.iReg.toNat + k) :=
  ⟨_, by decide, by decide, rfl, rfl, fun _ _ => rfl⟩

theorem witness_register_written : ∃ t, exec (.ldByte 0 5) s0 = .next t ∧ t.reg 0 ≠ s0.reg 0 := ⟨_, rfl, by decide⟩

theorem witness_stack_moved : ∃ t, exec (.call 0x300) s0 = .next t ∧ t.sp ≠ s0.sp ∧ t.stack ≠ s0.stack :=
  ⟨_, rfl, by decide, by decide⟩

theorem witness_i_written : ∃ t, exec (.ldI 0x123) s0 = .next t ∧ t.iReg ≠ s0.iReg := ⟨_, rfl, by decide⟩
theorem witness_dt_written : ∃ t, exec (.ldDTVx 1) (regs [(1, 3)] s0) = .next t ∧ t.dt ≠ (regs [(1, 3)] s0).dt :=
  ⟨_, rfl, by decide⟩
theorem witness_st_written : ∃ t, exec (.ldSTVx 1) (regs [(1, 3)] s0) = .next t ∧ t.st ≠ (regs [(1, 3)] s0).st :=
  ⟨_, rfl, by decide⟩
theorem witness_fb_written : ∃ t, exec (.drw 0 1 5) s0 = .next t ∧ t.fb ≠ s0.fb := by
  refine ⟨_, rfl, fun h => ?_⟩
  have := congrArg (fun f : Framebuffer => f.pixel 0 0) h
  revert this
  decide
theorem witness_mem_written : ∃ t, exec (.ldB 0) { s0 with iReg := 0x300, v := s0.v.set 0 0x9C } = .next t ∧
    t.mem ≠ s0.mem := ⟨_, rfl, by decide⟩

/-- A fault changes the run flag and the fault record. -/
theorem witness_control_state : ∃ t, exec .ret { s0 with cpuLoop := loaded .stop } = .next t ∧
    t.cpuLoop.run ≠ RunFlag.running ∧ t.fault ≠ s0.fault := ⟨_, rfl, by decide, by decide⟩

theorem witness_trace_switch : (∃ t, exec .cls s0 = .next t) ∧ (∃ t, cpuUnit (unimplAt .continues) = .next t) :=
  ⟨⟨_, rfl⟩, ⟨_, rfl⟩⟩

/-- LD [I], V1 at 0x200 with I = 0x202 stores over the next instruction. -/
theorem witness_store_then_fetch : ∃ t, Memory.wf s0.params.font s0.mem ∧
    ({ s0 with iReg := 0x202 } : State).iReg.toNat + (1 : Nibble).toNat ≤ 0xFFF ∧
    exec (.storeRegs 1) { s0 with iReg := 0x202 } = .next t ∧ (1 : Nibble).toNat = (0 : Nibble).toNat + 1 ∧
    (1 : Nibble).toNat ≤ (1 : Nibble).toNat ∧ (s0.pc + 2).toNat = 0x202 + (0 : Nibble).toNat :=
  ⟨_, by decide, by decide, rfl, by decide, by decide, by decide⟩

theorem witness_messages :
    (∀ m ∈ [Msg.start, .stop, .step],
      (chose (.pass .timer) { s0 with timerLoop := loaded m }).agenda = [.pass .timer]) ∧
    (∀ m ∈ [Msg.start, .stop], m ≠ .step ∧
      (chose (.pass .timer) { s0 with timerLoop := loaded m }).loop .timer = loaded m) ∧
    (chose (.pass .timer) { s0 with timerLoop := loaded .step }).loop .timer = loaded .step ∧
    (loaded .step).midPass = false ∧ (loaded .step).queue = [.step] := by decide

theorem witness_ticks :
    ∀ r ∈ [RunFlag.running, .stopped],
      (chose (.pass .cpu) { s0 with cpuLoop := { run := r, queue := [], due := true, midPass := false } }).loop .cpu =
        { run := r, queue := [], due := true, midPass := false } ∧
      (chose (.pass .cpu) { s0 with cpuLoop := { run := r, queue := [.stop], due := true, midPass := true } }).loop .cpu =
        { run := r, queue := [.stop], due := true, midPass := true } := by decide

theorem witness_trigger : (chose (.host (.trigger .display)) s0).agenda = [.host (.trigger .display)] ∧
    (s0.loop .display).due = false ∧
    (chose (.host (.trigger .cpu)) { s0 with cpuLoop := loaded .stop }).cpuLoop.due = true := by decide

theorem witness_idle : (chose (.pass .display) s0).agenda = [.pass .display] ∧ (s0.loop .display).midPass = false ∧
    (s0.loop .display).queue = [] ∧ (s0.loop .display).due = false := by decide

/-- A send to the CPU loop, which has one message queued, under a queue depth. -/
def sendAt (depth : Option Nat) : State :=
  chose (.host (.send .cpu .start)) { s0 with params := { defaultParams with queueDepth := depth }, cpuLoop := loaded .step }

/-- Room: unbounded, and one below the depth; full: at the depth. -/
theorem witness_send : (∀ d, (sendAt d).agenda = [.host (.send .cpu .start)]) ∧
    (sendAt none).params.queueDepth = none ∧
    (sendAt (some 2)).params.queueDepth = some 2 ∧ ((sendAt (some 2)).loop .cpu).queue.length < max 2 1 ∧
    (sendAt (some 1)).params.queueDepth = some 1 ∧ max 1 1 ≤ ((sendAt (some 1)).loop .cpu).queue.length :=
  ⟨fun _ => rfl, by decide⟩

theorem witness_quiescent : (chose (.pass .cpu) s0).CpuQuiescent ∧ (chose (.pass .cpu) s0).agenda = [.pass .cpu] := by
  unfold State.CpuQuiescent
  decide

/-- Quiescent with a pass under way, as after a Step that faults with a tick noted. -/
theorem witness_quiescent_midPass :
    let s := chose (.pass .cpu) { s0 with cpuLoop := { run := .stopped, queue := [], due := true, midPass := true } }
    s.CpuQuiescent ∧ s.agenda = [.pass .cpu] := by
  unfold State.CpuQuiescent
  decide

/-- The longest program that fits, and the shortest that does not. -/
theorem witness_load : (List.replicate 3584 (0x12 : Byte)).length ≤ 3584 ∧
    3584 < (List.replicate 3585 (0x12 : Byte)).length ∧
    ∀ bs, (chose (.host (.load bs)) s0).agenda = .host (.load bs) :: [] ∧
      Memory.wf (chose (.host (.load bs)) s0).params.font (chose (.host (.load bs)) s0).mem := by
  refine ⟨by rw [List.length_replicate], by rw [List.length_replicate]; decide, fun _ => ⟨rfl, ?_⟩⟩
  exact ⟨List.Pairwise.nil, by simp [chose, s0, State.reset, State.powerOn]⟩

theorem witness_keys : ∀ op ∈ [HostOp.keySet 15, .keyClear 15, .keyQuery 15, .keySet 16, .keyClear 16, .keyQuery 16],
    (chose (.host op) s0).agenda = [.host op] := by decide

theorem witness_host : ∀ op ∈ [HostOp.load [1], .send .cpu .step, .trigger .cpu, .keySet 0, .readFrame, .readStatus,
    .supplyRandom 7], (chose (.host op) s0).agenda = [.host op] ∧ blockedOn (.host op) s0 = none ∧
      (nextOf (step (chose (.host op) s0))).isSome = true ∧ op ≠ .reset := by decide

theorem witness_reset : (chose (.host .reset) s0).agenda = [.host .reset] := by decide

/-- The invariant holds at reset with a pass of the CPU loop chosen, where a step answers a next state. -/
theorem witness_invariant : (chose (.pass .cpu) s0).Inv ∧ ∃ t, step (chose (.pass .cpu) s0) = .next t :=
  ⟨{ mem_wf := by decide
     sp_legal := by decide
     entry_zero := by decide
     entries := by decide
     pc_range := by decide
     cause_range := by decide
     no_fault := by decide
     unseen := by decide
     cpu_loop := by decide
     timer_loop := by decide
     display_loop := by decide }, _, rfl⟩

end Sys2Proof.Tests
end

section
/-! SUPPORT. Power-on: what the loops' control state and memory are after reset, and the font as a run of bytes. -/

namespace Sys2Proof.Machine

open Sys2Proof.Config

/-! ### Memory that lists no cell, and the font's bytes -/

@[simp] theorem Memory.read_nil (font : Font) (a : Nat) : Memory.read font [] a = Memory.unlisted font a := rfl

@[simp] theorem State.powerOn_byteAt (p : Params) (a : Nat) :
    (State.powerOn p).byteAt a = Memory.unlisted p.font a := rfl

/-- 20_memory.md R74, R75: glyph after glyph, top row first. -/
theorem Memory.unlisted_eq_getElem_flatten (font : Font) {a : Nat} (h : a < 16 * 5) :
    Memory.unlisted font a = font.flatten[a] := by
  rw [Memory.unlisted, dif_pos (show a < fontBytes from h), Vector.getElem_flatten]

theorem State.powerOn_fontBytes (p : Params) :
    (List.range fontBytes).map (State.powerOn p).byteAt = p.font.flatten.toList := by
  refine List.ext_getElem (by simp) fun a _ ha => ?_
  have ha' : a < 16 * 5 := by simpa using ha
  simp [Memory.unlisted_eq_getElem_flatten p.font ha']

/-! ### The loops after reset -/

theorem State.reset_loop (l : Loop) : State.reset.loop l = LoopState.reset .stopped := by
  cases l <;> rfl

end Sys2Proof.Machine
end

section
/-! PROOFS. The default parameters (00_scope.md R7). -/

namespace Sys2Proof.Machine

/-- Settles O56: the loops and the policies are read off the defaults, and the bytes of the font's range are those of
the default font in order. -/
theorem resetHasTheDefaultParameters : Obligations.ResetHasTheDefaultParameters := by
  have hrun : ∀ l, (State.reset.loop l).run = .stopped := fun l => by rw [State.reset_loop, LoopState.reset]
  have hfont : (List.range 80).map State.reset.byteAt = standardFont.flatten.toList :=
    State.powerOn_fontBytes defaultParams
  exact ⟨hrun, rfl, rfl, rfl, rfl, rfl, hfont.trans (by simp [standardFont])⟩

end Sys2Proof.Machine
end

section
/-! SUPPORT. What a completing instruction leaves behind, by the kind of its effect: one constructor per kind, so that
a rule over all instructions is a case analysis over the kinds. -/

namespace Sys2Proof.Machine

open Sys2Proof.Config

variable {s t : State} {i : Instr}

/-! ### Where the pc can go (10_state.md R37) -/

theorem addrWord_le (nnn : Addr) : (addrWord nnn).toNat ≤ 0xFFF := by
  have := nnn.isLt
  simp [addrWord]; omega

theorem jumpV0Target_le (nnn : Addr) (s : State) : (jumpV0Target nnn s).toNat ≤ 0x10FE := by
  have h := addrWord_le nnn
  have hv : ((s.reg 0).setWidth 16).toNat ≤ 0xFF := by simp; omega
  have hsum : (jumpV0Target nnn s).toNat ≤ (addrWord nnn).toNat + ((s.reg 0).setWidth 16).toNat :=
    Nat.mod_le _ _
  omega

/-- Moving on from a pc that can be fetched from stays in range. -/
theorem pc_add_le {p d : Word} (hd : d.toNat ≤ 4) (hp : p.toNat ≤ 0xFFE) : (p + d).toNat ≤ 0x10FE := by
  have hsum : (p + d).toNat ≤ p.toNat + d.toNat := Nat.mod_le _ _
  omega

/-! ### The causes an instruction can take (60_exceptions.md R311, R312) -/

theorem Cause.code_ne_zero (c : Cause) : c.code ≠ 0 := by
  cases c <;> decide

theorem Cause.code_le_six {c : Cause} (hc : c ≠ .regIndex) : c.code.toNat ≤ 6 := by
  cases c with
  | regIndex => exact absurd rfl hc
  | fetchAddr | dataAddr | stackOverflow | stackUnderflow | keyIndex | unimplemented => decide

/-- REG_INDEX is reserved: no instruction raises it. -/
theorem ne_regIndex_of_mem_causesOf {c : Cause} (hc : c ∈ causesOf i) : c ≠ .regIndex := by
  rintro rfl
  cases i <;> simp [causesOf] at hc

/-! ### The kinds of effect -/

/-- `Completion s i w`: instruction `i` completes from `s` with its writes made in `w`, the trace still to come. -/
inductive Completion (s : State) : Instr → State → Prop
  /-- only pc moves -/
  | pc {i : Instr} (p : Word) (hp : s.pc.toNat ≤ 0xFFE → p.toNat ≤ 0x10FE) : Completion s i (s.setPc p)
  /-- one listed register -/
  | reg {i : Instr} {x : Nibble} (b : Byte) (hx : mayWriteReg i x = true) : Completion s i (s.setReg x b).advance
  /-- a listed register, then VF -/
  | resultFlag {i : Instr} {x : Nibble} (b : Byte) (c : Bool) (hx : mayWriteReg i x = true)
      (hf : mayWriteReg i vf = true) : Completion s i (s.setResultFlag x b c).advance
  | rnd (x : Nibble) (kk b : Byte) : Completion s (.rnd x kk) (s.dropDraw.setReg x b).advance
  | cls : Completion s .cls (s.setFb Framebuffer.clear).advance
  | drw (x y n : Nibble) (f : Framebuffer) (b : Byte) : Completion s (.drw x y n) ((s.setFb f).setReg vf b).advance
  | call (nnn : Addr) (hsp : s.sp.toNat < 15) :
      Completion s (.call nnn) ((s.pushAt (s.sp + 1) (s.pc + 2)).setPc (addrWord nnn))
  | ret (a : Word) (hsp : s.sp ≠ 0) (ha : s.stackEntry s.sp.toNat = some a) :
      Completion s .ret ((s.setPc a).setSp (s.sp - 1))
  /-- the address register -/
  | addr {i : Instr} (a : Word) (hi : (∃ nnn, i = .ldI nnn) ∨ (∃ x, i = .addI x) ∨ ∃ x, i = .ldF x) :
      Completion s i (s.setI a).advance
  | delay (x : Nibble) : Completion s (.ldDTVx x) (s.setDt (s.reg x)).advance
  | sound (x : Nibble) : Completion s (.ldSTVx x) (s.setSt (s.reg x)).advance
  /-- bytes stored at I, all of them inside memory -/
  | store {i : Instr} (bs : List Byte) (hi : (∃ x, i = .ldB x) ∨ ∃ x, i = .storeRegs x)
      (hlen : s.iReg.toNat + bs.length ≤ memSize) : Completion s i (s.storeBytes s.iReg.toNat bs).advance
  | loadRegs (x : Nibble) : Completion s (.loadRegs x) (loadBlock x s).advance

theorem Completion.advance : Completion s i s.advance := .pc _ (pc_add_le (by decide))

theorem Completion.skipIf (c : Bool) : Completion s i (s.skipIf c) := .pc _ fun hp => by
  cases c
  · exact pc_add_le (d := 2) (by decide) hp
  · exact pc_add_le (d := 4) (by decide) hp

/-- How `exec i s` ends when it answers a next state: the writes with their trace, or the fault entry of one of the
instruction's causes. -/
inductive Ends (i : Instr) (s : State) : State → Prop
  | completes {w : State} (hw : Completion s i w) : Ends i s (w.emitTrace s.pc (encode i))
  | raises {r : Raise} (hr : r.cause ∈ causesOf i) : Ends i s (takeFault r s)

theorem ends_of_retire_ok {w : State} (hw : Completion s i w) (h : retire i s (.ok w) = .next t) : Ends i s t := by
  cases h
  exact .completes hw

theorem ends_of_retire_error {r : Raise} (hr : r.cause ∈ causesOf i) (h : retire i s (.error r) = .next t) :
    Ends i s t := by
  cases h
  exact .raises hr

/-- Every address of a data transfer that passes its range check is inside memory (20_memory.md R82). -/
theorem ends_of_checkData {n : Nat} {w : State} (hi : .dataAddr ∈ causesOf i)
    (hw : (0 < n → s.iReg.toNat + n ≤ memSize) → Completion s i w) (h : retire i s (checkData n s w) = .next t) :
    Ends i s t := by
  unfold checkData at h
  split at h
  · exact ends_of_retire_error hi h
  · next hn => exact ends_of_retire_ok (hw fun h0 => by simp only [memSize]; omega) h

theorem ends_of_keyMode {e : Except Raise State} (he : retire i s e = .next t → Ends i s t)
    (h : retire i s (keyMode s e) = .next t) : Ends i s t := by
  unfold keyMode at h
  split at h
  · exact he h
  · exact ends_of_retire_ok .advance h

theorem ends_of_checkKey {x : Nibble} {c : Bool → State} (hi : .keyIndex ∈ causesOf i)
    (hc : ∀ b, Completion s i (c b)) (h : retire i s (checkKey x s c) = .next t) : Ends i s t := by
  unfold checkKey at h
  split at h
  · exact ends_of_retire_error hi h
  · exact ends_of_retire_ok (hc _) h

theorem waitKey_completion (x : Nibble) : Completion s (.ldVxK x) (waitKey x s) := by
  unfold waitKey
  split
  · exact .pc _ fun hp => by omega
  · exact .reg _ (by simp [mayWriteReg])

theorem execCall_ends {nnn : Addr} (h : execCall nnn s = .next t) : Ends (.call nnn) s t := by
  unfold execCall at h
  split at h
  · exact ends_of_retire_error (by simp [causesOf]) h
  · split at h
    · cases h
    · next hne hle =>
      have hne' : s.sp.toNat ≠ 15 := fun e => hne (BitVec.eq_of_toNat_eq e)
      exact ends_of_retire_ok (.call nnn (by omega)) h

theorem execRet_ends (h : execRet s = .next t) : Ends .ret s t := by
  unfold execRet at h
  split at h
  · exact ends_of_retire_error (by decide) h
  · split at h
    · next hsp _ a ha => exact ends_of_retire_ok (.ret a hsp ha) h
    · cases h

/-- Every instruction that answers a next state ends by one of the kinds of effect or by one of its causes. -/
theorem exec_ends (h : exec i s = .next t) : Ends i s t := by
  cases i
  case sys => exact ends_of_retire_ok .advance h
  case jp nnn => exact ends_of_retire_ok (.pc _ fun _ => (addrWord_le nnn).trans (by decide)) h
  case jpV0 nnn => exact ends_of_retire_ok (.pc _ fun _ => jumpV0Target_le nnn s) h
  case call => exact execCall_ends h
  case ret => exact execRet_ends h
  case seByte | sneByte | seReg | sneReg => exact ends_of_retire_ok (.skipIf _) h
  case ldByte | addByte | ldReg | orReg | andReg | xorReg | ldVxDT =>
    exact ends_of_retire_ok (.reg _ (by simp [mayWriteReg])) h
  case addReg | subReg | subnReg | shr | shl =>
    exact ends_of_retire_ok (.resultFlag _ _ (by simp [mayWriteReg]) (by simp [mayWriteReg])) h
  case rnd x kk => exact ends_of_retire_ok (.rnd x kk _) h
  case cls => exact ends_of_retire_ok .cls h
  case drw x y n => exact ends_of_checkData (by simp [causesOf]) (fun _ => .drw x y n _ _) h
  case skp | sknp =>
    exact ends_of_keyMode (ends_of_checkKey (by simp [causesOf]) fun _ => .skipIf _) h
  case ldVxK x => exact ends_of_keyMode (ends_of_retire_ok (waitKey_completion x)) h
  case ldDTVx x => exact ends_of_retire_ok (.delay x) h
  case ldSTVx x => exact ends_of_retire_ok (.sound x) h
  case ldI | addI | ldF => exact ends_of_retire_ok (.addr _ (by simp)) h
  case ldB x =>
    exact ends_of_checkData (by simp [causesOf])
      (fun hn => .store (bcdDigits (s.reg x)) (by simp) (hn (Nat.succ_pos _))) h
  case storeRegs x =>
    exact ends_of_checkData (by simp [causesOf])
      (fun hn => .store _ (by simp) (by rw [regBlock_length]; exact hn (by omega))) h
  case loadRegs x => exact ends_of_checkData (by simp [causesOf]) (fun _ => .loadRegs x) h

/-- Loading a block changes the general registers and nothing else, memory's cells included. -/
theorem loadBlock_eq (x : Nibble) (s : State) : ∃ v, loadBlock x s = { s with v := v } := by
  refine List.foldlRecOn (motive := fun t : State => ∃ v, t = { s with v := v }) _ _ ⟨s.v, rfl⟩ ?_
  rintro _ ⟨v, rfl⟩ k _
  exact ⟨_, rfl⟩

/-! ### What each kind of effect leaves alone -/

/-- A completing instruction leaves every register it has no licence to write (10_state.md R33). -/
theorem Completion.reg_eq {w : State} {j : Nibble} (hw : Completion s i w) (hj : mayWriteReg i j = false) :
    w.reg j = s.reg j := by
  have hne : ∀ {x}, mayWriteReg i x = true → j ≠ x := fun hx e => by simp [e, hx] at hj
  cases hw with
  | pc | cls | call | ret | addr | delay | sound | store => rfl
  | reg b hx => exact s.reg_setReg_other (hne hx) b
  | resultFlag b c hx hf =>
    rw [State.advance_reg, State.reg_setResultFlag, if_neg (hne hf), if_neg (hne hx)]
  | rnd x kk b =>
    rw [State.advance_reg, State.reg_setReg_other _ (hne (by simp [mayWriteReg])), State.dropDraw_reg]
  | drw x y n f b => exact (s.setFb f).reg_setReg_other (hne (by simp [mayWriteReg])) b
  | loadRegs x => rw [State.advance_reg, loadBlock_reg, if_neg (by simpa [mayWriteReg] using hj)]

/-- sp and the stack move only by the push of CALL and the pop of RET (10_state.md R39, R40). -/
theorem Completion.stack_cases {w : State} (hw : Completion s i w) :
    (w.sp = s.sp ∧ w.stack = s.stack) ∨ (i = .ret ∧ w.stack = s.stack) ∨
    ∃ nnn, i = .call nnn ∧ s.sp.toNat < 15 ∧ w.stack = s.stack.setIfInBounds (s.sp + 1).toNat (s.pc + 2) := by
  cases hw with
  | call nnn hsp => exact .inr (.inr ⟨nnn, rfl, hsp, rfl⟩)
  | ret => exact .inr (.inl ⟨rfl, rfl⟩)
  | pc | reg | resultFlag | cls | drw | addr | delay | sound | store => exact .inl ⟨rfl, rfl⟩
  | rnd => simp
  | loadRegs x =>
    obtain ⟨v, hv⟩ := loadBlock_eq x s
    simp [hv]

end Sys2Proof.Machine
end

section
/-! SUPPORT. The machine's invariant (10_state.md R37, R39, R40; 60_exceptions.md R311, R332): every operation on the
state keeps it, so every effect, unit of work, pass and host transaction does. -/

namespace Sys2Proof.Machine

open Sys2Proof.Config

variable {s t : State} {i : Instr}

namespace State.Inv

/-! ### Operations on the state -/

theorem setReg (h : s.Inv) (x : Nibble) (b : Byte) : (s.setReg x b).Inv := { h with }
theorem setI (h : s.Inv) (a : Word) : (s.setI a).Inv := { h with }
theorem setDt (h : s.Inv) (b : Byte) : (s.setDt b).Inv := { h with }
theorem setSt (h : s.Inv) (b : Byte) : (s.setSt b).Inv := { h with }
theorem setKeys (h : s.Inv) (k : Word) : (s.setKeys k).Inv := { h with }
theorem setFb (h : s.Inv) (f : Framebuffer) : (s.setFb f).Inv := { h with }
theorem emit (h : s.Inv) (o : Output) : (s.emit o).Inv := { h with }

theorem setPc (h : s.Inv) {a : Word} (ha : a.toNat ≤ 0x10FE) : (s.setPc a).Inv := { h with pc_range := ha }

theorem setSp (h : s.Inv) {j : Byte} (hj : j.toNat ≤ 15) : (s.setSp j).Inv := { h with sp_legal := hj }

theorem advance (h : s.Inv) (hpc : s.pc.toNat ≤ 0xFFE) : s.advance.Inv := h.setPc (pc_add_le (by decide) hpc)

theorem emitTrace (h : s.Inv) (p w : Word) : (s.emitTrace p w).Inv := by
  unfold State.emitTrace
  split
  · exact h.emit _
  · exact h

theorem dropDraw (h : s.Inv) : s.dropDraw.Inv := by
  unfold State.dropDraw
  split <;> exact { h with }

theorem loadBlock (h : s.Inv) (x : Nibble) : (loadBlock x s).Inv := by
  obtain ⟨v, hv⟩ := loadBlock_eq x s
  rw [hv]
  exact { h with }

theorem storeBytes (h : s.Inv) {a : Nat} {bs : List Byte} (ha : a + bs.length ≤ memSize) : (s.storeBytes a bs).Inv :=
  { h with mem_wf := State.storeBytes_wf h.mem_wf ha }

/-- A push above entry 0 of a return address in range. -/
theorem pushAt (h : s.Inv) {j : Byte} {a : Word} (hj : j.toNat ≤ 15) (h0 : j.toNat ≠ 0) (ha : a.toNat ≤ 0x1000) :
    (s.pushAt j a).Inv :=
  { h with
    sp_legal := hj
    entry_zero := by simpa [h0] using h.entry_zero
    entries := fun k => by
      by_cases hk : j.toNat = k
      · simp [hk, ha]
      · simpa [hk] using h.entries k }

/-- Every entry of the stack is a return address in range. -/
theorem stackEntry_le (h : s.Inv) {j : Nat} {a : Word} (ha : s.stackEntry j = some a) : a.toNat ≤ 0x1000 := by
  obtain ⟨hj, rfl⟩ := Vector.getElem?_eq_some_iff.mp ha
  exact h.entries ⟨j, hj⟩

/-! ### Loops and the environment's choices -/

theorem loop (h : s.Inv) : ∀ l, LoopInv s.params.queueDepth (s.loop l)
  | .cpu => h.cpu_loop
  | .timer => h.timer_loop
  | .display => h.display_loop

theorem setLoop (h : s.Inv) {l : Loop} {ls : LoopState} (hl : LoopInv s.params.queueDepth ls) :
    (s.setLoop l ls).Inv := by
  cases l with
  | cpu => exact { h with cpu_loop := hl }
  | timer => exact { h with timer_loop := hl }
  | display => exact { h with display_loop := hl }

theorem setRun (h : s.Inv) (l : Loop) (r : RunFlag) : (s.setRun l r).Inv := h.setLoop (h.loop l)

theorem choose (h : s.Inv) (agenda : List Action) (rounds : Nat) :
    ({ s with agenda := agenda, rounds := rounds } : State).Inv := { h with }

/-! ### Units of work -/

theorem takeFault (h : s.Inv) {r : Raise} (hr : r.cause ≠ .regIndex) : (takeFault r s).Inv :=
  { h with
    cause_range := Cause.code_le_six hr
    no_fault := fun h0 => absurd h0 r.cause.code_ne_zero }

theorem completion {w : State} (h : s.Inv) (hpc : s.pc.toNat ≤ 0xFFE) (hw : Completion s i w) : w.Inv := by
  cases hw with
  | pc p hp => exact h.setPc (hp hpc)
  | reg b => exact (h.setReg _ b).advance hpc
  | resultFlag b c => exact ((h.setReg _ b).setReg _ _).advance hpc
  | rnd x kk b => exact (h.dropDraw.setReg x b).advance (by simpa using hpc)
  | cls => exact (h.setFb _).advance hpc
  | drw x y n f b => exact ((h.setFb f).setReg _ b).advance hpc
  | call nnn hsp =>
    have hret : (s.pc + 2).toNat ≤ 0x1000 := by bv_omega
    exact (h.pushAt (by bv_omega) (by bv_omega) hret).setPc ((addrWord_le nnn).trans (by decide))
  | ret a hsp ha =>
    have hpop : (s.sp - 1).toNat ≤ 15 := by have := h.sp_legal; bv_omega
    exact (h.setPc ((h.stackEntry_le ha).trans (by decide))).setSp hpop
  | addr a => exact (h.setI a).advance hpc
  | delay => exact (h.setDt _).advance hpc
  | sound => exact (h.setSt _).advance hpc
  | store bs hi hlen => exact (h.storeBytes hlen).advance hpc
  | loadRegs x =>
    refine (h.loadBlock x).advance ?_
    rwa [(loadBlock_agree x s).pc (by decide)]

theorem exec (h : s.Inv) (hpc : s.pc.toNat ≤ 0xFFE) (he : exec i s = .next t) : t.Inv := by
  cases exec_ends he with
  | completes hw => exact (h.completion hpc hw).emitTrace _ _
  | raises hr => exact h.takeFault (ne_regIndex_of_mem_causesOf hr)

theorem unimplementedWord (h : s.Inv) (hpc : s.pc.toNat ≤ 0xFFE) (w : Word) : (unimplementedWord w s).Inv := by
  unfold Machine.unimplementedWord
  split
  · exact h.takeFault (by simp)
  · have hseen : ({ s with unimpl := { seen := true, pc := s.pc, word := w } } : State).Inv :=
      { h with unseen := by simp }
    exact ((hseen.advance hpc).emit _).emitTrace _ _

theorem cpuUnit (h : s.Inv) (hu : cpuUnit s = .next t) : t.Inv := by
  unfold Machine.cpuUnit at hu
  by_cases hpc : s.pc.toNat + 1 ≤ 0xFFF
  · rw [fetch16_ok hpc] at hu
    split at hu
    · next he => cases he
    · split at hu
      · exact h.exec (by omega) hu
      · cases hu
        exact h.unimplementedWord (by omega) _
  · rw [fetch16_fault (by omega)] at hu
    cases hu
    exact h.takeFault (by simp)

theorem unitOf (h : s.Inv) {l : Loop} (hu : unitOf l s = .next t) : t.Inv := by
  cases l with
  | cpu => exact h.cpuUnit hu
  | timer => cases hu; exact (h.setDt _).setSt _
  | display => cases hu; exact h.emit _

/-! ### Passes (60_exceptions.md R324) -/

theorem applyMsg (h : s.Inv) {l : Loop} {m : Msg} (hm : applyMsg l m s = .next t) : t.Inv := by
  cases m with
  | start => cases hm; exact h.setRun l _
  | stop => cases hm; exact h.setRun l _
  | step => exact h.unitOf hm

theorem tickTransition (h : s.Inv) {l : Loop} (ht : tickTransition l s = .next t) : t.Inv := by
  have hdone : (s.setLoop l { s.loop l with due := false, midPass := false }).Inv :=
    h.setLoop ⟨by simp, (h.loop l).2⟩
  unfold Machine.tickTransition at ht
  split at ht
  · exact hdone.unitOf ht
  · cases ht; exact hdone

theorem passTransition (h : s.Inv) {l : Loop} (hp : passTransition l s = .next t) : t.Inv := by
  unfold Machine.passTransition at hp
  split at hp
  · exact h.tickTransition hp
  · split at hp
    · next m q hq =>
      have hlen : ∀ d ∈ s.params.queueDepth, q.length ≤ max d 1 := fun d hd => by
        have := (h.loop l).2 d hd
        rw [hq, List.length_cons] at this
        omega
      exact (h.setLoop ⟨id, hlen⟩).applyMsg hp
    · split at hp
      · exact h.tickTransition hp
      · cases hp; exact h

/-! ### Host transactions (60_exceptions.md R335) -/

theorem loopInv_reset (depth : Option Nat) (run : RunFlag) : LoopInv depth (.reset run) :=
  ⟨fun hmid => absurd hmid Bool.false_ne_true, fun _ _ => Nat.zero_le _⟩

theorem powerOn (p : Params) : (State.powerOn p).Inv where
  mem_wf := ⟨List.Pairwise.nil, by simp [State.powerOn]⟩
  sp_legal := by simp [State.powerOn]
  entry_zero := by simp [State.powerOn]
  entries j := by simp [State.powerOn]
  pc_range := by simp [State.powerOn]
  cause_range := by simp [State.powerOn]
  no_fault _ := ⟨rfl, rfl⟩
  unseen _ := ⟨rfl, rfl⟩
  cpu_loop := loopInv_reset _ _
  timer_loop := loopInv_reset _ _
  display_loop := loopInv_reset _ _

theorem loadProgram (h : s.Inv) (bytes : List Byte) : (loadProgram bytes s).Inv := by
  unfold Machine.loadProgram
  split
  · next hlen => exact (h.storeBytes (by simp only [progBase, progMax, memSize] at *; omega)).emit _
  · exact h.emit _

theorem writeKey (h : s.Inv) (k : Nat) (c : Bool) : (writeKey k c s).Inv := by
  unfold Machine.writeKey
  split
  · exact h.emit _
  · exact h.setKeys _

theorem queryKey (h : s.Inv) (k : Nat) : (queryKey k s).Inv := by
  unfold Machine.queryKey
  split <;> exact h.emit _

theorem triggerLoop (h : s.Inv) (l : Loop) : (triggerLoop l s).Inv := h.setLoop ⟨fun _ => rfl, (h.loop l).2⟩

/-- A message goes into a queue with a free slot. -/
theorem enqueue (h : s.Inv) {l : Loop} (m : Msg) (hq : queueFull l s = false) : (enqueue l m s).Inv := by
  refine h.setLoop ⟨(h.loop l).1, fun d hd => ?_⟩
  obtain hnone | ⟨d', hd', hlt⟩ := queueFull_eq_false.mp hq
  · simp [hnone] at hd
  · obtain rfl : d' = d := Option.some.inj (hd'.symm.trans hd)
    simpa using hlt

theorem hostOp (h : s.Inv) {op : HostOp} (hb : blockedOn (.host op) s = none) : (hostOp op s).Inv := by
  cases op with
  | reset => exact { powerOn s.params with }
  | load bytes => exact h.loadProgram bytes
  | send l m => exact h.enqueue m (by simpa [blockedOn] using hb)
  | trigger l => exact h.triggerLoop l
  | keySet k => exact h.writeKey k true
  | keyClear k => exact h.writeKey k false
  | keyQuery k => exact h.queryKey k
  | readFrame => exact h.emit _
  | readStatus => exact h.emit _
  | supplyRandom b => exact { h with }

/-! ### The step -/

theorem chosenTransition (h : s.Inv) {a : Action} {rest : List Action} (hc : chosenTransition a rest s = .next t) :
    t.Inv := by
  unfold Machine.chosenTransition at hc
  split at hc
  · exact (h.choose _ _).passTransition hc
  · next hb =>
    cases a with
    | pass l => exact (h.choose _ _).passTransition hc
    | host op =>
      cases hc
      exact (h.choose _ _).hostOp hb

theorem step (h : s.Inv) (hs : step s = .next t) : t.Inv := by
  cases hagenda : s.agenda with
  | nil =>
    rw [step_round hagenda, step_chosen rfl] at hs
    exact (h.choose _ _).chosenTransition hs
  | cons a rest =>
    rw [step_chosen hagenda] at hs
    exact h.chosenTransition hs

end State.Inv

end Sys2Proof.Machine
end

section
/-! SUPPORT. Power-on, part by part (10_state.md R51). -/

namespace Sys2Proof.Machine

open Sys2Proof.Config

theorem State.powerOn_reg (p : Params) (x : Nibble) : (State.powerOn p).reg x = 0 := by
  simp [State.reg, State.powerOn]

theorem State.powerOn_stackEntry (p : Params) (j : Fin 16) : (State.powerOn p).stackEntry j = some 0 := by
  simp [State.stackEntry, State.powerOn]

theorem State.powerOn_loop_waits (p : Params) (l : Loop) :
    ((State.powerOn p).loop l).queue = [] ∧ ((State.powerOn p).loop l).due = false := by
  cases l <;> exact ⟨rfl, rfl⟩

theorem State.powerOn_fb_pixel (p : Params) (px py : Nat) : (State.powerOn p).fb.pixel px py = false :=
  Framebuffer.pixel_clear px py

/-- 20_memory.md R75: glyph k takes the five bytes from 5k on, top row first. -/
theorem State.powerOn_byteAt_glyph (p : Params) {k r : Nat} (hk : k < 16) (hr : r < 5) :
    (State.powerOn p).byteAt (5 * k + r) = p.font[k][r] := by
  have hdiv : (5 * k + r) / 5 = k := by omega
  have hmod : (5 * k + r) % 5 = r := by omega
  rw [State.powerOn_byteAt, Memory.unlisted_eq_getElem_flatten p.font (by omega), Vector.getElem_flatten]
  simp only [hdiv, hmod]

theorem State.powerOn_byteAt_zero (p : Params) {a : Nat} (ha : 80 ≤ a) : (State.powerOn p).byteAt a = 0 := by
  rw [State.powerOn_byteAt, Memory.unlisted, dif_neg (Nat.not_lt.mpr ha)]

end Sys2Proof.Machine
end

section
/-! PROOFS. The reset values (10_state.md R51) and the invariant. -/

namespace Sys2Proof.Machine

/-- Settles O59: the transition chosen keeps the invariant, be it a pass, a blocked send's pass or a host
transaction. -/
theorem stepKeepsTheInvariant : Obligations.StepKeepsTheInvariant := fun _ _ h hs => h.step hs

/-- Settles O58: power-on meets the invariant under every setting of the parameters, so reset's does. -/
theorem powerOnMeetsTheInvariant : Obligations.PowerOnMeetsTheInvariant :=
  ⟨State.Inv.powerOn defaultParams, State.Inv.powerOn⟩

/-- Settles O55: memory after reset is the font and zeros, and every other part is written in power-on's own terms. -/
theorem resetValues : Obligations.ResetValues :=
  fun p => ⟨State.powerOn_reg p, rfl, rfl, rfl, State.powerOn_stackEntry p, rfl, rfl, rfl, State.powerOn_fb_pixel p,
    rfl, rfl, rfl, State.powerOn_loop_waits p, rfl, rfl, fun _ _ => State.powerOn_byteAt_glyph p,
    fun _ ha _ => State.powerOn_byteAt_zero p ha⟩

end Sys2Proof.Machine
end

section
/-! PROOFS. Which instructions change which parts of the state (10_state.md R33 to R43). -/

namespace Sys2Proof.Machine

/-- Settles O38: a fault writes no register, and a completion writes only registers listed for its instruction. -/
theorem onlyListedRegistersAreWritten : Obligations.OnlyListedRegistersAreWritten := by
  intro i s t j h hne
  cases exec_ends h with
  | raises => exact absurd rfl hne
  | completes hw =>
    rw [State.emitTrace_reg] at hne
    exact Bool.of_not_eq_false fun hj => hne (hw.reg_eq hj)

/-- Settles O39: the stack moves by a push or a pop, and a push goes above entry 0 because sp does not wrap. -/
theorem onlyCallAndRetMoveTheStack : Obligations.OnlyCallAndRetMoveTheStack := by
  intro i s t h
  cases exec_ends h with
  | raises => simp [State.stackEntry]
  | @completes w hw =>
    obtain ⟨hsp, hst⟩ | ⟨rfl, hst⟩ | ⟨nnn, rfl, hsp, hst⟩ := hw.stack_cases
    · simp [State.stackEntry, hsp, hst]
    · simp [State.stackEntry, hst]
    · have hpos : (s.sp + 1).toNat ≠ 0 := by bv_omega
      have hentry : (w.emitTrace s.pc (encode (.call nnn))).stackEntry 0 = s.stackEntry 0 := by
        rw [State.stackEntry, State.emitTrace_stack, hst, Vector.getElem?_setIfInBounds_ne hpos, State.stackEntry]
      exact ⟨fun _ => .inr ⟨nnn, rfl⟩, fun _ => ⟨nnn, rfl⟩, hentry⟩

/-- Settles O40: fault entry touches none of these parts, and each has its own kinds of effect. -/
theorem otherStateHasItsListedWriters : Obligations.OtherStateHasItsListedWriters := by
  intro i s t h
  cases exec_ends h with
  | raises => simp
  | completes hw =>
    cases hw with
    | pc | reg | resultFlag | rnd | cls | drw | call | ret | delay | sound => simp
    | addr a hi => simp [hi]
    | store bs hi => simp [hi]
    | loadRegs x =>
      obtain ⟨v, hv⟩ := loadBlock_eq x s
      simp [hv]

/-- Settles O17: with sp above 15 neither exception applies, and there is no entry to push to or to pop. -/
theorem illegalStackPointerStops : Obligations.IllegalStackPointerStops := by
  intro nnn s hsp
  have h15 : s.sp ≠ 15#8 := fun e => by simp [e] at hsp
  have h0 : s.sp ≠ 0#8 := fun e => by simp [e] at hsp
  have hentry : s.stackEntry s.sp.toNat = none := by simp [State.stackEntry]; omega
  exact ⟨by simp [exec, execCall, h15, hsp], by simp [exec, execRet, h0, hentry]⟩

end Sys2Proof.Machine
end

section
/-! PROOFS. Stores reach the next fetch, and a program load is all or nothing (20_memory.md R78, R84, R91). -/

namespace Sys2Proof.Machine

variable {s : State}

/-! ### LD [I], Vx over the next instruction -/

/-- LD [I], Vx completes when its block ends inside memory (44_index_memory.md R284). -/
theorem exec_storeRegs {x : Nibble} (hI : s.iReg.toNat + x.toNat ≤ 0xFFF) :
    exec (.storeRegs x) s = .next
      ((s.storeBytes s.iReg.toNat (regBlock x s)).advance.emitTrace s.pc (encode (.storeRegs x))) := by
  have hcheck : x.toNat + 1 = 0 ∨ s.iReg.toNat + (x.toNat + 1 - 1) ≤ 0xFFF := .inr hI
  rw [exec, execStoreRegs, checkData_ok hcheck, retire_ok]

/-- A stored register block holds Vj at I + j. -/
theorem storeBytes_regBlock_byteAt {x j : Nibble} (hm : Memory.wf s.params.font s.mem)
    (hI : s.iReg.toNat + x.toNat ≤ 0xFFF) (hj : j.toNat ≤ x.toNat) :
    (s.storeBytes s.iReg.toNat (regBlock x s)).byteAt (s.iReg.toNat + j.toNat) = s.reg j := by
  have hlen : j.toNat < (regBlock x s).length := by simpa using Nat.lt_succ_of_le hj
  have hend : s.iReg.toNat + (regBlock x s).length ≤ Config.memSize := by
    rw [regBlock_length]; exact Nat.succ_le_succ hI
  rw [State.storeBytes_byteAt_inside hm hend hlen, regBlock_getElem]

/-- Settles O43: both bytes of the next fetch lie in the block just stored. -/
theorem storesAreSeenByTheNextFetch : Obligations.StoresAreSeenByTheNextFetch := by
  intro x j k s t hm hI hexec hk hkx hpc
  obtain rfl := Host.Outcome.next.inj (hexec.symm.trans (exec_storeRegs hI))
  have hj := storeBytes_regBlock_byteAt hm hI (j := j) (by omega)
  have hk1 := storeBytes_regBlock_byteAt hm hI hkx
  rw [hk, ← Nat.add_assoc] at hk1
  refine ⟨_, fetch16_ok ?_, ?_⟩
  · rw [State.emitTrace_pc, State.advance_pc, State.storeBytes_pc, hpc]
    omega
  · simp only [wordOfBytes_toNat, State.emitTrace_pc, State.emitTrace_byteAt, State.advance_pc, State.advance_byteAt,
      State.storeBytes_pc, hpc, hj, hk1]

/-! ### Program load (20_memory.md R84) -/

theorem loadProgram_fits {bytes : List Byte} (h : bytes.length ≤ 3584) :
    loadProgram bytes s = (s.storeBytes 0x200 bytes).emit (.loaded .ok) :=
  if_pos h

theorem loadProgram_tooLong {bytes : List Byte} (h : 3584 < bytes.length) :
    loadProgram bytes s = s.emit (.loaded .tooLong) :=
  if_neg (Nat.not_le.mpr h)

/-- A load is never blocked, so it is the step when it comes next. -/
theorem step_load {bytes : List Byte} {rest : List Action} (h : s.agenda = .host (.load bytes) :: rest) :
    step s = .next (loadProgram bytes { s with agenda := rest }) :=
  step_host h rfl

/-- Settles O52: a program that fits is one run of bytes stored from 0x200, which ends inside memory. -/
theorem programLoadIsAllOrNothing : Obligations.ProgramLoadIsAllOrNothing := by
  intro s bytes rest ha hm
  refine ⟨fun hfits => ?_, fun hlong => ?_⟩
  · have hend : 0x200 + bytes.length ≤ Config.memSize := Nat.add_le_add_left hfits 0x200
    refine ⟨_, step_load ha, ?_⟩
    rw [loadProgram_fits hfits]
    refine ⟨rfl, rfl, fun k hk => ?_, fun a hout => ?_, fun p hp => ?_⟩
    · rw [State.emit_byteAt]
      exact State.storeBytes_byteAt_inside hm hend hk
    · rw [State.emit_byteAt]
      exact State.storeBytes_byteAt_outside hout
    · cases p with
      | mem | agenda | out => simp at hp
      | _ => rfl
  · refine ⟨_, step_load ha, ?_⟩
    rw [loadProgram_tooLong hlong]
    refine ⟨rfl, rfl, fun p hp => ?_⟩
    cases p with
    | agenda | out => simp at hp
    | mem => exact fun _ => rfl
    | _ => rfl

end Sys2Proof.Machine
end

section
/-! SUPPORT. The decoder against the encoder (30_encoding.md R105, R106): what decoding the word of an instruction
gives, and what a word that decodes to an instruction, or to Unimplemented, must be. -/

namespace Sys2Proof

variable {w : Word}

/-! ### Decoding an encoding -/

/-- The word of `SYS` is neither of the two words that take precedence over it (30_encoding.md R105). -/
theorem wf_sys_iff (nnn : Addr) :
    (Instr.sys nnn).wf = true ↔ wordA 0x0#4 nnn ≠ 0x00E0#16 ∧ wordA 0x0#4 nnn ≠ 0x00EE#16 := by
  simp [Instr.wf, ← BitVec.toNat_inj, wordA_toNat]

theorem decode_encode {i : Instr} (hi : i.wf = true) : decode (encode i) = .op i := by
  cases i with
  | sys nnn =>
    obtain ⟨hcls, hret⟩ := (wf_sys_iff nnn).mp hi
    simp [encode, decode, decode0, hcls, hret]
  | cls | ret => decide
  | jp _ | call _ | ldI _ | jpV0 _ => simp [encode, decode]
  | seByte _ _ | sneByte _ _ | ldByte _ _ | addByte _ _ | rnd _ _ => simp [encode, decode]
  | seReg _ _ | sneReg _ _ | drw _ _ _ => simp [encode, decode]
  | ldReg _ _ | orReg _ _ | andReg _ _ | xorReg _ _ | addReg _ _ | subReg _ _ | shr _ _ | subnReg _ _ | shl _ _ =>
    simp [encode, decode, decode8]
  | skp _ | sknp _ => simp [encode, decode, decodeE]
  | ldVxDT _ | ldVxK _ | ldDTVx _ | ldSTVx _ | addI _ | ldF _ | ldB _ | storeRegs _ | loadRegs _ =>
    simp [encode, decode, decodeF]

theorem decodeBytes_encodeBytes {i : Instr} (hi : i.wf = true) (rest : List Byte) :
    decodeBytes (encodeBytes i ++ rest) = .op i rest := by
  simp [encodeBytes, decodeBytes, decode_encode hi]

/-! ### The word of a format, from the fields that are fixed -/

theorem wordA_nnnOf {op : Nibble} (hop : opOf w = op) : wordA op (nnnOf w) = w := by
  rw [← hop, wordA_fields]

theorem wordXK_kkOf {op : Nibble} (hop : opOf w = op) : wordXK op (xOf w) (kkOf w) = w := by
  rw [← hop, wordXK_fields]

theorem wordXK_sub {op : Nibble} {kk : Byte} (hop : opOf w = op) (hkk : kkOf w = kk) : wordXK op (xOf w) kk = w := by
  rw [← hkk, wordXK_kkOf hop]

theorem wordXYN_nOf {op : Nibble} (hop : opOf w = op) : wordXYN op (xOf w) (yOf w) (nOf w) = w := by
  rw [← hop, wordXYN_fields]

theorem wordXYN_sub {op n : Nibble} (hop : opOf w = op) (hn : nOf w = n) : wordXYN op (xOf w) (yOf w) n = w := by
  rw [← hn, wordXYN_nOf hop]

/-! ### The number of a format's word, with its sub-operation put beside the opcode -/

theorem wordXK_toNat_sub (op x : Nibble) (kk : Byte) :
    (wordXK op x kk).toNat = op.toNat * 4096 + kk.toNat + x.toNat * 256 := by
  rw [wordXK_toNat, Nat.add_right_comm]

theorem wordXYN_toNat_sub (op x y n : Nibble) :
    (wordXYN op x y n).toNat = op.toNat * 4096 + n.toNat + x.toNat * 256 + y.toNat * 16 := by
  rw [wordXYN_toNat]; omega

/-! ### What a word decodes to -/

/-- The words of 30_encoding.md R107. -/
def IsUnimplemented (w : Word) : Prop :=
  (opOf w = 0x5 ∧ nOf w ≠ 0x0) ∨ (opOf w = 0x9 ∧ nOf w ≠ 0x0) ∨
    (opOf w = 0x8 ∧ nOf w ∈ [0x8, 0x9, 0xA, 0xB, 0xC, 0xD, 0xF]) ∨
    (opOf w = 0xE ∧ kkOf w ∉ [0x9E, 0xA1]) ∨
    (opOf w = 0xF ∧ kkOf w ∉ [0x07, 0x0A, 0x15, 0x18, 0x1E, 0x29, 0x33, 0x55, 0x65])

/-- The same words, by the fields' numbers. -/
theorem isUnimplemented_iff : IsUnimplemented w ↔
    (w.toNat / 4096 = 5 ∧ w.toNat % 16 ≠ 0) ∨ (w.toNat / 4096 = 9 ∧ w.toNat % 16 ≠ 0) ∨
      (w.toNat / 4096 = 8 ∧ w.toNat % 16 ∈ [8, 9, 0xA, 0xB, 0xC, 0xD, 0xF]) ∨
      (w.toNat / 4096 = 0xE ∧ w.toNat % 256 ∉ [0x9E, 0xA1]) ∨
      (w.toNat / 4096 = 0xF ∧ w.toNat % 256 ∉ [0x07, 0x0A, 0x15, 0x18, 0x1E, 0x29, 0x33, 0x55, 0x65]) := by
  simp [IsUnimplemented, ← BitVec.toNat_inj, opOf_toNat, nOf_toNat, kkOf_toNat]

/-- No instruction's word is one of them. -/
theorem not_isUnimplemented_encode (i : Instr) : ¬ IsUnimplemented (encode i) := by
  cases i with
  | cls | ret => unfold IsUnimplemented; decide
  | _ => simp [IsUnimplemented, encode]

/-- What decoding `w` can answer: an instruction whose word is `w`, or, of the words of R107, Unimplemented with the
word itself. -/
inductive DecodesTo (w : Word) : Decoded → Prop
  | op {i : Instr} (henc : encode i = w) (hwf : i.wf = true) : DecodesTo w (.op i)
  | unimplemented (hw : IsUnimplemented w) : DecodesTo w (.unimplemented w)

theorem decode0_decodesTo (hop : opOf w = 0x0) : DecodesTo w (decode0 w) := by
  unfold decode0
  split_ifs with hcls hret
  · exact .op hcls.symm rfl
  · exact .op hret.symm rfl
  · have hsys : wordA 0x0#4 (nnnOf w) = w := wordA_nnnOf hop
    exact .op hsys ((wf_sys_iff _).mpr ⟨by rwa [hsys], by rwa [hsys]⟩)

theorem decode8_decodesTo (hop : opOf w = 0x8) : DecodesTo w (decode8 w) := by
  unfold decode8
  split
  case h_10 =>
    have hn : nOf w ∈ [0x8, 0x9, 0xA, 0xB, 0xC, 0xD, 0xF] := by
      generalize nOf w = n at *
      revert n
      decide
    exact .unimplemented (.inr (.inr (.inl ⟨hop, hn⟩)))
  all_goals exact .op (wordXYN_sub hop ‹_›) rfl

theorem decodeE_decodesTo (hop : opOf w = 0xE) : DecodesTo w (decodeE w) := by
  unfold decodeE
  split
  case h_3 =>
    have hkk : kkOf w ∉ [0x9E, 0xA1] := by simp_all
    exact .unimplemented (.inr (.inr (.inr (.inl ⟨hop, hkk⟩))))
  all_goals exact .op (wordXK_sub hop ‹_›) rfl

theorem decodeF_decodesTo (hop : opOf w = 0xF) : DecodesTo w (decodeF w) := by
  unfold decodeF
  split
  case h_10 =>
    have hkk : kkOf w ∉ [0x07, 0x0A, 0x15, 0x18, 0x1E, 0x29, 0x33, 0x55, 0x65] := by simp_all
    exact .unimplemented (.inr (.inr (.inr (.inr ⟨hop, hkk⟩))))
  all_goals exact .op (wordXK_sub hop ‹_›) rfl

/-- The arms of the opcode map, grouped by format; the families keyed by a sub-operation are the lemmas above. -/
theorem decode_decodesTo (w : Word) : DecodesTo w (decode w) := by
  unfold decode
  split
  case h_1 _ hop => exact decode0_decodesTo hop
  case h_9 _ hop => exact decode8_decodesTo hop
  case h_15 _ hop => exact decodeE_decodesTo hop
  case h_16 =>
    have hop : opOf w = 0xF := by
      generalize opOf w = op at *
      revert op
      decide
    exact decodeF_decodesTo hop
  case h_6 _ hop =>
    split_ifs with hn
    · exact .op (wordXYN_sub hop hn) rfl
    · exact .unimplemented (.inl ⟨hop, hn⟩)
  case h_10 _ hop =>
    split_ifs with hn
    · exact .op (wordXYN_sub hop hn) rfl
    · exact .unimplemented (.inr (.inl ⟨hop, hn⟩))
  case h_2 _ hop | h_3 _ hop | h_11 _ hop | h_12 _ hop => exact .op (wordA_nnnOf hop) rfl
  case h_4 _ hop | h_5 _ hop | h_7 _ hop | h_8 _ hop | h_13 _ hop => exact .op (wordXK_kkOf hop) rfl
  case h_14 _ hop => exact .op (wordXYN_nOf hop) rfl

theorem encode_of_decode {i : Instr} (h : decode w = .op i) : encode i = w ∧ i.wf = true := by
  have hw := decode_decodesTo w
  rw [h] at hw
  cases hw with
  | op henc hwf => exact ⟨henc, hwf⟩

theorem decode_eq_unimplemented_iff {u : Word} : decode w = .unimplemented u ↔ u = w ∧ IsUnimplemented w := by
  have hw := decode_decodesTo w
  constructor
  · intro hd
    rw [hd] at hw
    cases hw with
    | unimplemented hu => exact ⟨rfl, hu⟩
  · rintro ⟨rfl, hu⟩
    cases hd : decode u with
    | op i =>
      obtain ⟨rfl, -⟩ := encode_of_decode hd
      exact absurd hu (not_isUnimplemented_encode i)
    | unimplemented v =>
      rw [hd] at hw
      cases hw
      rfl

end Sys2Proof
end

section
/-! PROOFS. The encoding (30_encoding.md R103 to R107). -/

namespace Sys2Proof

/-- Settles O3: the fields of an instruction's word are the ones its format put there. -/
theorem decodeOfEncodeIsTheInstruction : Obligations.DecodeOfEncodeIsTheInstruction :=
  fun _ hi => ⟨decode_encode hi, decodeBytes_encodeBytes hi⟩

/-- Settles O4: each arm of the decoder takes the word apart into the fields its format puts together. -/
theorem decodedWordIsItsEncoding : Obligations.DecodedWordIsItsEncoding :=
  fun _ _ h => encode_of_decode h

/-- Settles O5: a word of R107 is no instruction's word, and the decoder answers Unimplemented on no other. -/
theorem unimplementedWordsAreTheListedOnes : Obligations.UnimplementedWordsAreTheListedOnes := by
  intro w op n kk listed
  have hlisted : IsUnimplemented w ↔ listed := isUnimplemented_iff
  refine ⟨fun h => decode_eq_unimplemented_iff.mpr ⟨rfl, hlisted.mpr h⟩, fun h => ?_⟩
  cases hd : decode w with
  | op i => exact ⟨i, rfl⟩
  | unimplemented u => exact absurd (hlisted.mp (decode_eq_unimplemented_iff.mp hd).2) h

/-- Settles O1: each word is in one arm of the opcode map, by computation. -/
theorem writtenWordsDecode : Obligations.WrittenWordsDecode := by
  unfold Obligations.WrittenWordsDecode
  decide

/-- Settles O2: row by row, the number of the row's format; where the low byte or nibble is the sub-operation, it is
part of the row's number. -/
theorem encodingsFollowTheOpcodeMap : Obligations.EncodingsFollowTheOpcodeMap := by
  intro x y n kk nnn X Y
  exact ⟨(wordA_toNat _ _).trans (Nat.zero_add _), rfl, rfl, wordA_toNat _ _, wordA_toNat _ _, wordXK_toNat _ _ _,
    wordXK_toNat _ _ _, wordXYN_toNat_sub _ _ _ _, wordXK_toNat _ _ _, wordXK_toNat _ _ _,
    wordXYN_toNat_sub _ _ _ _, wordXYN_toNat_sub _ _ _ _, wordXYN_toNat_sub _ _ _ _, wordXYN_toNat_sub _ _ _ _,
    wordXYN_toNat_sub _ _ _ _, wordXYN_toNat_sub _ _ _ _, wordXYN_toNat_sub _ _ _ _, wordXYN_toNat_sub _ _ _ _,
    wordXYN_toNat_sub _ _ _ _, wordXYN_toNat_sub _ _ _ _, wordA_toNat _ _, wordA_toNat _ _, wordXK_toNat _ _ _,
    wordXYN_toNat _ _ _ _, wordXK_toNat_sub _ _ _, wordXK_toNat_sub _ _ _, wordXK_toNat_sub _ _ _,
    wordXK_toNat_sub _ _ _, wordXK_toNat_sub _ _ _, wordXK_toNat_sub _ _ _, wordXK_toNat_sub _ _ _,
    wordXK_toNat_sub _ _ _, wordXK_toNat_sub _ _ _, wordXK_toNat_sub _ _ _, wordXK_toNat_sub _ _ _⟩

end Sys2Proof
end

section
/-! SUPPORT. The CPU's unit of work by what is fetched (30_encoding.md R112): which branch it takes, and what its answer
says about that. -/

namespace Sys2Proof.Machine

variable {s t : State} {w : Word}

theorem cpuUnit_fetchFault {r : Raise} (hf : fetch16 s = .error r) : cpuUnit s = .next (takeFault r s) := by
  simp [cpuUnit, hf]

theorem cpuUnit_op {i : Instr} (hf : fetch16 s = .ok w) (hd : decode w = .op i) : cpuUnit s = exec i s := by
  simp [cpuUnit, hf, hd]

theorem cpuUnit_unimplemented (hf : fetch16 s = .ok w) (hd : decode w = .unimplemented w) :
    cpuUnit s = .next (unimplementedWord w s) := by
  simp [cpuUnit, hf, hd]

/-- A unit of work that answers a next state took one of the three branches. -/
theorem cpuUnit_next (h : cpuUnit s = .next t) :
    (∃ r, fetch16 s = .error r ∧ t = takeFault r s) ∨
    ∃ w, fetch16 s = .ok w ∧
      ((∃ i, decode w = .op i ∧ exec i s = .next t) ∨
        (decode w = .unimplemented w ∧ t = unimplementedWord w s)) := by
  cases hf : fetch16 s with
  | error r =>
    rw [cpuUnit_fetchFault hf] at h
    exact .inl ⟨r, rfl, (Host.Outcome.next.inj h).symm⟩
  | ok w =>
    refine .inr ⟨w, rfl, ?_⟩
    cases hd : decode w with
    | op i => exact .inl ⟨i, rfl, by rwa [cpuUnit_op hf hd] at h⟩
    | unimplemented u =>
      obtain ⟨rfl, -⟩ := decode_eq_unimplemented_iff.mp hd
      rw [cpuUnit_unimplemented hf hd] at h
      exact .inr ⟨rfl, (Host.Outcome.next.inj h).symm⟩

theorem unimplementedWord_faults (w : Word) (hp : s.params.unimplPolicy = .faults) :
    unimplementedWord w s = takeFault { cause := .unimplemented, info := w } s := by
  simp [unimplementedWord, hp]

theorem unimplementedWord_continues (w : Word) (hp : s.params.unimplPolicy = .continues) :
    unimplementedWord w s =
      (({ s with unimpl := { seen := true, pc := s.pc, word := w } }).advance.emit
        (.unimplReport s.pc w)).emitTrace s.pc w := by
  simp [unimplementedWord, hp]

theorem State.emitTrace_out_append (p w : Word) :
    (s.emitTrace p w).out = (if s.params.traceEnable then [.trace p w] else []) ++ s.out := by
  rw [State.emitTrace_out]
  split <;> rfl

/-- An instruction that answers a next state takes a fault, or makes its writes and then emits the trace. -/
theorem exec_faults_or_completes {i : Instr} (h : exec i s = .next t) :
    (∃ code info, FaultEntry code info s t) ∨
      ∃ u, AgreeExcept effectParts s u ∧ t = u.emitTrace s.pc (encode i) := by
  have he := exec_effect i s
  rw [h] at he
  cases he with
  | completes u hu => exact .inr ⟨u, hu, rfl⟩
  | raises r _ => exact .inl ⟨_, _, takeFault_entry r s⟩

end Sys2Proof.Machine
end

section
/-! PROOFS. The execution cycle (30_encoding.md R101, R112, R113). -/

namespace Sys2Proof.Machine

/-- Settles O10: by the branch the unit of work took; a completed instruction's trace is of the word fetched because a
decoded word is its instruction's encoding. -/
theorem cpuUnitCompletesOrIsFaultEntry : Obligations.CpuUnitCompletesOrIsFaultEntry := by
  intro s t h
  obtain ⟨r, -, rfl⟩ | ⟨w, hf, ⟨i, hd, he⟩ | ⟨hd, rfl⟩⟩ := cpuUnit_next h
  · exact .inl ⟨_, _, takeFault_entry r s⟩
  · obtain hfault | ⟨u, hu, rfl⟩ := exec_faults_or_completes he
    · exact .inl hfault
    · obtain ⟨rfl, -⟩ := encode_of_decode hd
      have hop : decode (encode i) ≠ .unimplemented (encode i) := by simp [hd]
      have hloop : u.cpuLoop = s.cpuLoop := hu.cpuLoop (by simp)
      have hrecord : u.fault = s.fault := hu.fault (by simp)
      have hparams : u.params = s.params := hu.params (by simp)
      have hout : u.out = s.out := hu.out (by simp)
      refine .inr ⟨_, hf, by rw [State.emitTrace_cpuLoop, hloop], by rw [State.emitTrace_fault, hrecord], ?_⟩
      rw [State.emitTrace_out_append, hparams, hout, if_neg hop, List.nil_append]
  · cases hp : s.params.unimplPolicy with
    | faults =>
      rw [unimplementedWord_faults w hp]
      exact .inl ⟨_, _, takeFault_entry _ s⟩
    | continues =>
      rw [unimplementedWord_continues w hp]
      refine .inr ⟨w, hf, by simp, by simp, ?_⟩
      rw [State.emitTrace_out_append, if_pos hd]
      rfl

/-- Settles O6: the fetch is the word of the two bytes, or its raise, which the unit of work takes. -/
theorem fetchIsBigEndianOrFaults : Obligations.FetchIsBigEndianOrFaults := by
  intro s
  refine ⟨fun h => ⟨_, fetch16_ok h, wordOfBytes_toNat _ _⟩, fun h => ?_⟩
  have hf := fetch16_fault h
  exact ⟨hf, _, cpuUnit_fetchFault hf, takeFault_entry { cause := .fetchAddr, info := s.pc } s⟩

/-- Settles O7: what the step changes before the unit of work, the agenda and the CPU loop's control state, no fetch
reads. -/
theorem stepRunsTheDecodedInstruction : Obligations.StepRunsTheDecodedInstruction := by
  intro s i hpc hd
  refine ⟨cpuUnit_exec hpc hd, fun rest q ha hm hq => ?_, fun rest ha hr hb => ?_, step_round⟩
  · calc step s = passTransition .cpu { s with agenda := rest } := step_pass ha
      _ = cpuUnit { s with agenda := rest, cpuLoop := { s.cpuLoop with queue := q, midPass := s.cpuLoop.due } } :=
        passTransition_message (s := { s with agenda := rest }) (l := .cpu) hm hq
      _ = _ := cpuUnit_exec hpc hd
  · calc step s = passTransition .cpu { s with agenda := rest } := step_pass ha
      _ = tickTransition .cpu { s with agenda := rest } := passTransition_tick hb
      _ = cpuUnit { s with agenda := rest, cpuLoop := { s.cpuLoop with due := false, midPass := false } } :=
        tickTransition_running (l := .cpu) hr
      _ = _ := cpuUnit_exec hpc hd

end Sys2Proof.Machine
end

section
/-! SUPPORT. Control transfer (40_control_flow.md R140 to R149): the frame of each update it makes, and what CALL and
RET answer by the stack pointer. -/

namespace Sys2Proof.Machine

variable {s t : State} {i : Instr} {p : Word}

/-! ### Frames: an update leaves the parts it does not name, by computation -/

theorem State.setPc_agree (s : State) (a : Word) : AgreeExcept [.pc] s (s.setPc a) := by
  intro p hp
  cases p with
  | pc => simp at hp
  | mem => exact fun _ => rfl
  | _ => rfl

theorem State.setSp_agree (s : State) (j : Byte) : AgreeExcept [.sp] s (s.setSp j) := by
  intro p hp
  cases p with
  | sp => simp at hp
  | mem => exact fun _ => rfl
  | _ => rfl

theorem State.pushAt_agree (s : State) (j : Byte) (a : Word) : AgreeExcept [.sp, .stack] s (s.pushAt j a) := by
  intro p hp
  cases p with
  | sp | stack => simp at hp
  | mem => exact fun _ => rfl
  | _ => rfl

theorem State.emit_agree (s : State) (o : Output) : AgreeExcept [.out] s (s.emit o) := by
  intro p hp
  cases p with
  | out => simp at hp
  | mem => exact fun _ => rfl
  | _ => rfl

/-- A change after a change is within what the two leave open together. -/
theorem AgreeExcept.append {ps qs : List Part} {u : State} (h : AgreeExcept ps s t) (k : AgreeExcept qs t u) :
    AgreeExcept (ps ++ qs) s u :=
  (h.weaken (List.subset_append_left ps qs)).trans (k.weaken (List.subset_append_right ps qs))

/-- The trace changes the outputs at most (60_exceptions.md R337). -/
theorem AgreeExcept.emitTrace {ps : List Part} (h : AgreeExcept ps s t) (p w : Word) :
    AgreeExcept (ps ++ [.out]) s (t.emitTrace p w) := by
  unfold State.emitTrace
  split
  · exact h.append (t.emit_agree _)
  · exact h.weaken (List.subset_append_left ps _)

/-- A part that comes out as it was need not be excepted. -/
theorem AgreeExcept.restore {q : Part} {ps : List Part} (h : AgreeExcept (q :: ps) s t) (hq : q.same s t) :
    AgreeExcept ps s t := by
  intro p hp
  by_cases hpq : p = q
  · exact hpq ▸ hq
  · exact h p (by simp [hpq, hp])

/-! ### Instructions that only move pc -/

theorem onlyPcMoves_of_setPc (h : exec i s = retire i s (.ok (s.setPc p))) : OnlyPcMoves i s p :=
  ⟨_, h, State.emitTrace_pc .., tracedOut_emitTrace i rfl rfl,
    (s.setPc_agree p).emitTrace _ _⟩

theorem onlyPcMoves_of_skipIf {c : Bool} {P : Prop} [Decidable P] (hc : c = true ↔ P)
    (h : exec i s = retire i s (.ok (s.skipIf c))) : OnlyPcMoves i s (if P then s.pc + 4 else s.pc + 2) := by
  refine onlyPcMoves_of_setPc (h.trans ?_)
  rw [State.skipIf]
  simp only [hc]

/-! ### Jump targets, as numbers -/

theorem addrWord_eq_ofNat (nnn : Addr) : addrWord nnn = BitVec.ofNat 16 nnn.toNat :=
  (BitVec.ofNat_toNat 16 nnn).symm

theorem jumpV0Target_eq_ofNat (nnn : Addr) (s : State) :
    jumpV0Target nnn s = BitVec.ofNat 16 (nnn.toNat + (s.reg 0).toNat) := by
  rw [BitVec.ofNat_add, BitVec.ofNat_toNat, BitVec.ofNat_toNat, jumpV0Target, addrWord]

/-! ### CALL and RET (40_control_flow.md R141, R143) -/

theorem exec_call {nnn : Addr} (h : s.sp.toNat < 15) :
    exec (.call nnn) s = .next
      (((s.pushAt (s.sp + 1) (s.pc + 2)).setPc (addrWord nnn)).emitTrace s.pc (encode (.call nnn))) := by
  have hne : s.sp ≠ 15 := fun e => absurd (e ▸ h) (by decide)
  rw [exec, execCall, if_neg hne, if_neg (by omega), retire_ok]

theorem exec_call_overflow (nnn : Addr) (h : s.sp = 15) :
    exec (.call nnn) s = .next (takeFault { cause := .stackOverflow, info := 15 } s) := by
  rw [exec, execCall, if_pos h, retire_error]

theorem exec_ret {a : Word} (h : s.sp ≠ 0) (ha : s.stackEntry s.sp.toNat = some a) :
    exec .ret s = .next (((s.setPc a).setSp (s.sp - 1)).emitTrace s.pc (encode .ret)) := by
  simp only [exec, execRet, if_neg h, ha, retire_ok]

theorem exec_ret_underflow (h : s.sp = 0) :
    exec .ret s = .next (takeFault { cause := .stackUnderflow, info := 0 } s) := by
  rw [exec, execRet, if_pos h, retire_error]

theorem State.pushAt_stackEntry_same {j : Byte} (a : Word) (hj : j.toNat < 16) :
    (s.pushAt j a).stackEntry j.toNat = some a := by
  simp [State.stackEntry, hj]

theorem State.pushAt_stackEntry_other {j : Byte} {k : Nat} (a : Word) (hk : k ≠ j.toNat) :
    (s.pushAt j a).stackEntry k = s.stackEntry k :=
  Vector.getElem?_setIfInBounds_ne hk.symm

@[simp] theorem State.emitTrace_stackEntry (p w : Word) (k : Nat) :
    (s.emitTrace p w).stackEntry k = s.stackEntry k := by
  rw [State.stackEntry, State.emitTrace_stack, State.stackEntry]

end Sys2Proof.Machine
end

section
/-! PROOFS. Control transfer (40_control_flow.md R140 to R148; 90_conflicts.md C5). -/

namespace Sys2Proof.Machine

/-- Settles O12: SYS is the default advance. -/
theorem sysOnlyAdvances : Obligations.SysOnlyAdvances :=
  fun _ _ => onlyPcMoves_of_setPc rfl

/-- Settles O13: each jump sets pc to its target word, which is the target's number because 16 bits hold it. -/
theorem jumpsSetPcExactly : Obligations.JumpsSetPcExactly := by
  intro nnn s
  refine ⟨?_, ?_, by omega⟩
  · rw [← addrWord_eq_ofNat]
    exact onlyPcMoves_of_setPc rfl
  · rw [← jumpV0Target_eq_ofNat]
    exact onlyPcMoves_of_setPc rfl

/-- Settles O14: the four are `skip_if` on their comparison. -/
theorem skipsFollowTheirComparison : Obligations.SkipsFollowTheirComparison :=
  fun _ _ _ _ => ⟨onlyPcMoves_of_skipIf beq_iff_eq rfl, onlyPcMoves_of_skipIf bne_iff_ne rfl,
    onlyPcMoves_of_skipIf beq_iff_eq rfl, onlyPcMoves_of_skipIf bne_iff_ne rfl⟩

/-- Settles O15: with sp below 15 the new sp does not wrap and is the number of an entry. -/
theorem callPushesTheReturnAddress : Obligations.CallPushesTheReturnAddress := by
  intro nnn s
  refine ⟨fun hsp => ?_, fun hsp => ⟨_, exec_call_overflow nnn hsp, takeFault_entry _ s⟩⟩
  have hsucc : (s.sp + 1).toNat = s.sp.toNat + 1 := by bv_omega
  refine ⟨_, exec_call hsp, ?_, ?_, fun j hj => ?_, ?_, tracedOut_emitTrace _ rfl rfl, ?_⟩
  · rw [State.emitTrace_sp]
    exact hsucc
  · rw [State.emitTrace_stackEntry, ← hsucc]
    exact State.pushAt_stackEntry_same _ (by omega)
  · rw [State.emitTrace_stackEntry]
    exact State.pushAt_stackEntry_other _ (hsucc ▸ hj)
  · rw [State.emitTrace_pc]
    exact addrWord_eq_ofNat nnn
  · exact ((s.pushAt_agree _ _).append (State.setPc_agree _ _)).emitTrace _ _

/-- Settles O16: with sp from 1 to 15 there is an entry to pop, and sp - 1 does not wrap. -/
theorem retPopsTheReturnAddress : Obligations.RetPopsTheReturnAddress := by
  intro s
  refine ⟨fun hlt hpos => ?_, fun hsp => ⟨_, exec_ret_underflow hsp, takeFault_entry _ s⟩⟩
  have hne : s.sp ≠ 0 := fun e => absurd (e ▸ hpos) (by decide)
  have hentry : s.stackEntry s.sp.toNat = some s.stack[s.sp.toNat] := Vector.getElem?_eq_getElem hlt
  refine ⟨_, exec_ret hne hentry, ?_, ?_, tracedOut_emitTrace _ rfl rfl, ?_⟩
  · rw [State.emitTrace_pc, State.setSp_pc, State.setPc_pc]
  · rw [State.emitTrace_sp, State.setSp_sp]
    bv_omega
  · exact (((s.setPc_agree _).append (State.setSp_agree _ _)).emitTrace _ _).weaken (by simp)

/-- Settles O18, from what CALL pushes and what RET pops: the entry sp names after the CALL is the one it pushed. -/
theorem retUndoesCall : Obligations.RetUndoesCall := by
  intro nnn s t hsp hcall
  obtain ⟨t', hcall', htsp, hentry, -, -, -, hst⟩ := (callPushesTheReturnAddress nnn s).1 hsp
  obtain rfl := Host.Outcome.next.inj (hcall'.symm.trans hcall)
  obtain ⟨u, hret, hupc, husp, -, htu⟩ := (retPopsTheReturnAddress t').1 (by omega) (by omega)
  have hpc : u.pc = s.pc + 2 := by
    rw [State.stackEntry, ← htsp, Vector.getElem?_eq_getElem (by omega)] at hentry
    exact hupc.trans (Option.some.inj hentry)
  have hback : u.sp = s.sp := BitVec.eq_of_toNat_eq (by omega)
  exact ⟨u, hret, hpc, hback, (hst.trans (htu.weaken (by simp))).restore hback⟩

end Sys2Proof.Machine
end

section
/-! SUPPORT. Register loads and arithmetic (41_register_alu.md R180 to R195): the frame of each register update, the
results and flags as numbers, and what an instruction that ends in such an update does. -/

namespace Sys2Proof.Machine

variable {s : State} {i : Instr} {x : Nibble} {b : Byte}

/-! ### Frames -/

theorem State.setReg_agree (s : State) (x : Nibble) (b : Byte) : AgreeExcept [.v] s (s.setReg x b) := by
  intro p hp
  cases p with
  | v => simp at hp
  | mem => exact fun _ => rfl
  | _ => rfl

theorem State.setResultFlag_agree (s : State) (x : Nibble) (r : Byte) (c : Bool) :
    AgreeExcept [.v] s (s.setResultFlag x r c) :=
  (s.setReg_agree x r).trans (State.setReg_agree _ vf _)

theorem State.advance_agree (s : State) : AgreeExcept [.pc] s s.advance := s.setPc_agree _

theorem State.dropDraw_agree (s : State) : AgreeExcept [.draws, .drawCount] s s.dropDraw := by
  intro p hp
  cases p with
  | draws | drawCount => simp at hp
  | mem => exact s.dropDraw_byteAt
  | _ => simp [Part.same]

/-! ### Instructions that end in a register update and the default advance -/

theorem writesReg_of_setReg (h : exec i s = retire i s (.ok (s.setReg x b).advance)) : WritesReg i s x b := by
  refine ⟨_, h, ?_, fun j hj => ?_, State.emitTrace_pc .., tracedOut_emitTrace i rfl rfl,
    ((s.setReg_agree x b).append (State.advance_agree _)).emitTrace _ _⟩
  · rw [State.emitTrace_reg, State.advance_reg, State.reg_setReg_same]
  · rw [State.emitTrace_reg, State.advance_reg, State.reg_setReg_other _ hj]

theorem writesRegAndFlag_of_setResultFlag {c : Bool}
    (h : exec i s = retire i s (.ok (s.setResultFlag x b c).advance)) : WritesRegAndFlag i s x b (flagByte c) := by
  have hreg (j : Nibble) : (((s.setResultFlag x b c).advance).emitTrace s.pc (encode i)).reg j =
      if j = vf then flagByte c else if j = x then b else s.reg j := by
    rw [State.emitTrace_reg, State.advance_reg, State.reg_setResultFlag]
  refine ⟨_, h, ?_, fun hx => ?_, fun j hjx hjf => ?_, State.emitTrace_pc .., tracedOut_emitTrace i rfl rfl,
    ((s.setResultFlag_agree x b c).append (State.advance_agree _)).emitTrace _ _⟩
  · exact (hreg vf).trans (if_pos rfl)
  · exact (hreg x).trans ((if_neg hx).trans (if_pos rfl))
  · exact (hreg j).trans ((if_neg hjf).trans (if_neg hjx))

/-! ### Results as numbers (41_register_alu.md R180) -/

theorem byte_add_eq_ofNat (a b : Byte) : a + b = BitVec.ofNat 8 ((a.toNat + b.toNat) % 256) := by bv_omega

theorem byte_sub_eq_ofNat (a b : Byte) : a - b = BitVec.ofNat 8 ((a.toNat + 256 - b.toNat) % 256) := by bv_omega

theorem byte_sub_eq_ofNat_of_le {a b : Byte} (h : b.toNat ≤ a.toNat) : a - b = BitVec.ofNat 8 (a.toNat - b.toNat) := by
  bv_omega

theorem byte_shiftRight_one (a : Byte) : a >>> 1 = BitVec.ofNat 8 (a.toNat / 2) := by bv_omega

theorem byte_shiftLeft_one (a : Byte) : a <<< 1 = BitVec.ofNat 8 (a.toNat * 2 % 256) := by bv_omega

/-- Under `WriteAlways` SUB leaves the wrapped difference (41_register_alu.md R182). -/
theorem subResult_writeAlways (a b : Byte) :
    subResult .writeAlways a b = BitVec.ofNat 8 ((a.toNat + 256 - b.toNat) % 256) :=
  byte_sub_eq_ofNat a b

/-- Under `WriteIfNoBorrow` a borrow leaves the old value (41_register_alu.md R182). -/
theorem subResult_writeIfNoBorrow (a b : Byte) :
    subResult .writeIfNoBorrow a b = if a.toNat ≥ b.toNat then BitVec.ofNat 8 (a.toNat - b.toNat) else a := by
  by_cases h : b.toNat ≤ a.toNat
  · simp [subResult, noBorrow, h, byte_sub_eq_ofNat_of_le h]
  · simp [subResult, noBorrow, h]

/-! ### Flags as numbers (41_register_alu.md R180, R189 to R193) -/

theorem flagByte_carryOf (a b : Byte) : flagByte (carryOf a b) = if a.toNat + b.toNat > 255 then 1 else 0 := by
  simp [flagByte, carryOf]

theorem flagByte_noBorrow (a b : Byte) : flagByte (noBorrow a b) = if a.toNat ≥ b.toNat then 1 else 0 := by
  simp [flagByte, noBorrow]

theorem flagByte_decide_eq_one {n : Nat} (h : n < 2) : flagByte (decide (n = 1)) = BitVec.ofNat 8 n := by
  interval_cases n <;> rfl

theorem flagByte_shiftedOutLow (a : Byte) : flagByte (shiftedOutLow a) = BitVec.ofNat 8 (a.toNat % 2) := by
  have hbit : shiftedOutLow a = decide (a.toNat % 2 = 1) := Nat.testBit_zero a.toNat
  rw [hbit, flagByte_decide_eq_one (by omega)]

theorem flagByte_shiftedOutHigh (a : Byte) : flagByte (shiftedOutHigh a) = BitVec.ofNat 8 (a.toNat / 128) := by
  have hlt : a.toNat / 128 < 2 := by omega
  have hbit : shiftedOutHigh a = decide (a.toNat / 128 % 2 = 1) := Nat.testBit_eq_decide_div_mod_eq
  rw [hbit, Nat.mod_eq_of_lt hlt, flagByte_decide_eq_one hlt]

/-! ### RND -/

theorem exec_rnd (x : Nibble) (kk : Byte) (s : State) :
    exec (.rnd x kk) s = .next
      ((s.dropDraw.setReg x (s.nextDraw &&& kk)).advance.emitTrace s.pc (encode (.rnd x kk))) := rfl

end Sys2Proof.Machine
end

section
/-! PROOFS. Register loads and arithmetic (41_register_alu.md R183 to R195). -/

namespace Sys2Proof.Machine

/-- Settles O19: each is one register write; the byte sum is the number sum reduced. -/
theorem loadsAndByteAddWriteOnlyVx : Obligations.LoadsAndByteAddWriteOnlyVx := by
  intro x y kk s
  rw [← byte_add_eq_ofNat]
  exact ⟨writesReg_of_setReg rfl, writesReg_of_setReg rfl, writesReg_of_setReg rfl⟩

/-- Settles O20: each is one register write. -/
theorem logicOpsWriteOnlyVx : Obligations.LogicOpsWriteOnlyVx :=
  fun _ _ _ => ⟨writesReg_of_setReg rfl, writesReg_of_setReg rfl, writesReg_of_setReg rfl⟩

/-- Settles O21: the reduced sum, then its carry. -/
theorem addSetsSumAndCarry : Obligations.AddSetsSumAndCarry := by
  intro x y s a b
  rw [← byte_add_eq_ofNat, ← flagByte_carryOf]
  exact writesRegAndFlag_of_setResultFlag rfl

/-- Settles O22: the policy chooses the result; the flag is NOT borrow under both. -/
theorem subFollowsItsWritePolicy : Obligations.SubFollowsItsWritePolicy := by
  intro x y s a b
  have hsub : WritesRegAndFlag (.subReg x y) s x (subResult s.params.subWrite (s.reg x) (s.reg y))
      (flagByte (noBorrow (s.reg x) (s.reg y))) := writesRegAndFlag_of_setResultFlag rfl
  rw [flagByte_noBorrow] at hsub
  refine ⟨fun hp => ?_, fun hp => ?_⟩
  · rwa [hp, subResult_writeAlways] at hsub
  · rwa [hp, subResult_writeIfNoBorrow] at hsub

/-- Settles O23: SUBN reads no policy. -/
theorem subnSetsReverseDifference : Obligations.SubnSetsReverseDifference := by
  intro x y s a b
  rw [← byte_sub_eq_ofNat, ← flagByte_noBorrow]
  exact writesRegAndFlag_of_setResultFlag rfl

/-- Settles O24: neither shift reads Vy. -/
theorem shiftsMoveVxByOne : Obligations.ShiftsMoveVxByOne := by
  intro x y s a
  rw [← byte_shiftRight_one, ← byte_shiftLeft_one, ← flagByte_shiftedOutLow, ← flagByte_shiftedOutHigh]
  exact ⟨writesRegAndFlag_of_setResultFlag rfl, writesRegAndFlag_of_setResultFlag rfl⟩

/-- Settles O25: the draw is the next one, and using it up changes only the draws. -/
theorem rndMasksItsDraw : Obligations.RndMasksItsDraw := by
  intro x kk s
  refine ⟨_, s.nextDraw, exec_rnd x kk s, ?_, fun j hj => ?_, ?_, tracedOut_emitTrace _ ?_ ?_, ?_,
    fun b bs h => ?_, fun h => ?_⟩
  · rw [State.emitTrace_reg, State.advance_reg, State.reg_setReg_same]
  · rw [State.emitTrace_reg, State.advance_reg, State.reg_setReg_other _ hj, State.dropDraw_reg]
  · rw [State.emitTrace_pc, State.advance_pc, State.setReg_pc, State.dropDraw_pc]
  · exact s.dropDraw_params
  · exact s.dropDraw_out
  · exact (((s.dropDraw_agree.append (State.setReg_agree _ x _)).append (State.advance_agree _)).emitTrace _ _).weaken
      (by simp)
  · rw [State.emitTrace_draws, State.emitTrace_drawCount]
    exact State.nextDraw_supplied s h
  · rw [State.emitTrace_draws, State.emitTrace_drawCount]
    exact State.nextDraw_free s h

end Sys2Proof.Machine
end

section
/-! SUPPORT. The display (42_display.md R220 to R226): the frame of a framebuffer write, what CLS and DRW answer, and
which pixels a sprite covers when it is drawn again. -/

namespace Sys2Proof.Machine

variable {s t : State} {x y n : Nibble}

theorem State.setFb_agree (s : State) (f : Framebuffer) : AgreeExcept [.fb] s (s.setFb f) := by
  intro p hp
  cases p with
  | fb => simp at hp
  | mem => exact fun _ => rfl
  | _ => rfl

theorem frameOf_clear : FrameOf Framebuffer.clear = ∅ := by
  simp [FrameOf]

theorem exec_cls (s : State) :
    exec .cls s = .next ((s.setFb Framebuffer.clear).advance.emitTrace s.pc (encode .cls)) := rfl

/-- A DRW whose sprite is in memory completes: the blit, then its collision to VF (42_display.md R225). -/
theorem exec_drw (h : n = 0 ∨ s.iReg.toNat + (n.toNat - 1) ≤ 0xFFF) :
    exec (.drw x y n) s = .next
      (((s.setFb (drawSprite x y n s).fb).setReg vf (flagByte (drawSprite x y n s).col)).advance.emitTrace s.pc
        (encode (.drw x y n))) := by
  have hcheck : n.toNat = 0 ∨ s.iReg.toNat + (n.toNat - 1) ≤ 0xFFF := h.imp_left (congrArg BitVec.toNat)
  rw [exec, execDrw, checkData_ok hcheck, retire_ok]

/-- A sprite that reaches above 0xFFF is not drawn (20_memory.md R82). -/
theorem exec_drw_dataAddr (hn : n ≠ 0) (h : 0xFFF < s.iReg.toNat + (n.toNat - 1)) :
    exec (.drw x y n) s = .next
      (takeFault { cause := .dataAddr, info := BitVec.ofNat 16 (max s.iReg.toNat 0x1000) } s) := by
  have hpos : 0 < n.toNat := by bv_omega
  rw [exec, execDrw, checkData_fault hpos h, retire_error]

/-- What a sprite covers depends only on its coordinates and its bytes. -/
theorem spriteCovers_congr {px py : Nat} (hx : t.reg x = s.reg x) (hy : t.reg y = s.reg y) (hI : t.iReg = s.iReg)
    (hm : ∀ a, t.byteAt a = s.byteAt a) : SpriteCovers t x y n px py ↔ SpriteCovers s x y n px py := by
  simp only [SpriteCovers, hx, hy, hI, hm]

end Sys2Proof.Machine
end

section
/-! PROOFS. The display (42_display.md R224, R225). -/

namespace Sys2Proof.Machine

/-- Settles O26: the screen becomes the clear one. -/
theorem clsClearsEveryPixel : Obligations.ClsClearsEveryPixel := by
  intro s
  refine ⟨_, exec_cls s, fun px py _ _ => ?_, ?_, State.emitTrace_pc .., tracedOut_emitTrace _ rfl rfl,
    ((s.setFb_agree _).append (State.advance_agree _)).emitTrace _ _⟩
  · rw [State.emitTrace_fb]
    exact Framebuffer.pixel_clear px py
  · rw [State.emitTrace_fb]
    exact frameOf_clear

/-- Settles O27: the range check gives the fault, and the blit's specification the pixels and the flag. -/
theorem drwXorsTheSpriteAndReportsCollision : Obligations.DrwXorsTheSpriteAndReportsCollision := by
  intro x y n s
  refine ⟨fun hn hhigh => ⟨_, exec_drw_dataAddr hn hhigh, takeFault_entry _ s⟩, fun hin => ?_⟩
  obtain ⟨hpixels, hcol⟩ := drawSprite_spec x y n s
  refine ⟨_, exec_drw hin, fun px py hx hy => ?_, fun hhit => ?_, fun hclear => ?_, fun j hj => ?_,
    State.emitTrace_pc .., tracedOut_emitTrace _ rfl rfl, ?_⟩
  · rw [State.emitTrace_fb]
    exact hpixels px py hx hy
  · rw [State.emitTrace_reg, State.advance_reg]
    exact (State.reg_setReg_same _ vf _).trans (congrArg flagByte (hcol.mpr hhit))
  · rw [State.emitTrace_reg, State.advance_reg]
    exact (State.reg_setReg_same _ vf _).trans (congrArg flagByte (Bool.of_not_eq_true (mt hcol.mp hclear)))
  · rw [State.emitTrace_reg, State.advance_reg]
    exact State.reg_setReg_other _ (x := vf) hj _
  · exact ((((s.setFb_agree _).append (State.setReg_agree _ vf _)).append (State.advance_agree _)).emitTrace
      _ _).weaken (by simp)

/-- Settles O28, from what one DRW does: the second draw covers the same pixels, so each is flipped twice, and one
that was clear is set when the second draw meets it. -/
theorem drawingTwiceRestoresTheScreen : Obligations.DrawingTwiceRestoresTheScreen := by
  intro x y n s t hx hy hin hexec
  obtain ⟨t', hexec', hfirst, -, -, hregs, -, -, hst⟩ := (drwXorsTheSpriteAndReportsCollision x y n s).2 hin
  obtain rfl := Host.Outcome.next.inj (hexec'.symm.trans hexec)
  have hI : t'.iReg = s.iReg := hst.iReg (by simp)
  have hcovers (px py : Nat) : SpriteCovers t' x y n px py ↔ SpriteCovers s x y n px py :=
    spriteCovers_congr (hregs x hx) (hregs y hy) hI (hst.byteAt (by simp))
  obtain ⟨u, hexecu, hsecond, hcollides, -⟩ := (drwXorsTheSpriteAndReportsCollision x y n t').2 (hI ▸ hin)
  refine ⟨u, hexecu, Framebuffer.ext_pixel fun px py hpx hpy => ?_, ?_⟩
  · obtain ⟨hflip, hkeep⟩ := hfirst px py hpx hpy
    obtain ⟨hflip', hkeep'⟩ := hsecond px py hpx hpy
    by_cases hc : SpriteCovers s x y n px py
    · rw [hflip' ((hcovers px py).mpr hc), hflip hc, Bool.not_not]
    · rw [hkeep' (mt (hcovers px py).mp hc), hkeep hc]
  · rintro ⟨px, py, hpx, hpy, hc, hclear⟩
    refine hcollides ⟨px, py, hpx, hpy, (hcovers px py).mpr hc, ?_⟩
    rw [(hfirst px py hpx hpy).1 hc, hclear, Bool.not_false]

end Sys2Proof.Machine
end

section
/-! SUPPORT. Keyboard and timer instructions (43_keyboard_timers.md R250 to R257): what a key instruction answers in
each mode, what LD Vx, K does by the keys held, and the frame of each timer write. -/

namespace Sys2Proof.Machine

variable {s : State} {i : Instr} {x : Nibble}

/-! ### The two modes of a key instruction (43_keyboard_timers.md R250) -/

section

variable {e : Except Raise State} (h : exec i s = retire i s (keyMode s e))
include h

theorem exec_of_implemented (hm : s.params.keyMode = .implemented) : exec i s = retire i s e :=
  h.trans (congrArg (retire i s) (keyMode_implemented hm))

theorem onlyPcMoves_of_stubbed (hm : s.params.keyMode = .stubbed) : OnlyPcMoves i s (s.pc + 2) :=
  onlyPcMoves_of_setPc (h.trans (congrArg (retire i s) (keyMode_stubbed hm)))

end

/-! ### The key named by Vx (43_keyboard_timers.md R251, R252) -/

section

variable {c : Bool → State} (h : exec i s = retire i s (checkKey x s c))
include h

theorem exec_of_checkKey_ok (hx : (s.reg x).toNat ≤ 15) :
    exec i s = retire i s (.ok (c (s.keys.getLsbD (s.reg x).toNat))) :=
  h.trans (congrArg (retire i s) (checkKey_ok hx))

theorem faultsWith_of_checkKey (hx : 15 < (s.reg x).toNat) :
    FaultsWith i s 5 (BitVec.ofNat 16 (s.reg x).toNat) := by
  rw [checkKey_fault hx, retire_error, ← BitVec.ofNat_toNat] at h
  exact ⟨_, h, takeFault_entry _ s⟩

end

/-! ### LD Vx, K (43_keyboard_timers.md R254) -/

theorem waitKey_noKey (x : Nibble) (h : s.keys = 0) : waitKey x s = s.setPc s.pc := by
  rw [waitKey, h, lowestKey_zero]

theorem waitKey_lowestKey {k : Nat} (x : Nibble) (h : lowestKey s.keys = some k) :
    waitKey x s = (s.setReg x (BitVec.ofNat 8 k)).advance := by
  rw [waitKey, h]

/-! ### Timer writes (43_keyboard_timers.md R255, R256) -/

theorem State.setDt_agree (s : State) (b : Byte) : AgreeExcept [.dt] s (s.setDt b) := by
  intro p hp
  cases p with
  | dt => simp at hp
  | mem => exact fun _ => rfl
  | _ => rfl

theorem State.setSt_agree (s : State) (b : Byte) : AgreeExcept [.st] s (s.setSt b) := by
  intro p hp
  cases p with
  | st => simp at hp
  | mem => exact fun _ => rfl
  | _ => rfl

theorem exec_ldDTVx (x : Nibble) (s : State) :
    exec (.ldDTVx x) s = .next ((s.setDt (s.reg x)).advance.emitTrace s.pc (encode (.ldDTVx x))) := rfl

theorem exec_ldSTVx (x : Nibble) (s : State) :
    exec (.ldSTVx x) s = .next ((s.setSt (s.reg x)).advance.emitTrace s.pc (encode (.ldSTVx x))) := rfl

/-- sound_on follows ST (43_keyboard_timers.md R256). -/
theorem State.soundOn_iff (s : State) : s.soundOn = true ↔ s.st ≠ 0 := bne_iff_ne

end Sys2Proof.Machine
end

section
/-! PROOFS. Keyboard and timer instructions (43_keyboard_timers.md R251 to R257). -/

namespace Sys2Proof.Machine

/-- Settles O30: under Implemented the effect is the wait's, which turns on whether there is a lowest held key. -/
theorem keyWaitTakesTheLowestKey : Obligations.KeyWaitTakesTheLowestKey := by
  intro x s hm
  have hexec : exec (.ldVxK x) s = retire (.ldVxK x) s (.ok (waitKey x s)) := exec_of_implemented rfl hm
  refine ⟨fun hnone => ?_, fun k hk hheld hlower => ?_⟩
  · rw [waitKey_noKey x hnone] at hexec
    exact onlyPcMoves_of_setPc hexec
  · rw [waitKey_lowestKey x (lowestKey_eq_some hk hheld hlower)] at hexec
    exact writesReg_of_setReg hexec

/-- Settles O29: with Vx a key number each is a skip on that key's bit; above 15 the check raises KEY_INDEX. -/
theorem keySkipsReadTheMask : Obligations.KeySkipsReadTheMask := by
  intro x s hm
  have hskp : exec (.skp x) s = retire (.skp x) s (checkKey x s fun held => s.skipIf held) :=
    exec_of_implemented rfl hm
  have hsknp : exec (.sknp x) s = retire (.sknp x) s (checkKey x s fun held => s.skipIf (!held)) :=
    exec_of_implemented rfl hm
  refine ⟨fun hx => ⟨?_, ?_⟩, fun hx => ⟨faultsWith_of_checkKey hskp hx, faultsWith_of_checkKey hsknp hx⟩⟩
  · exact onlyPcMoves_of_skipIf Iff.rfl (exec_of_checkKey_ok hskp hx)
  · exact onlyPcMoves_of_skipIf (Bool.not_eq_true' _).to_iff (exec_of_checkKey_ok hsknp hx)

/-- Settles O31: the mode answers the plain advance, whatever the instruction would do. -/
theorem stubbedKeyInstructionsOnlyAdvance : Obligations.StubbedKeyInstructionsOnlyAdvance :=
  fun _ _ hm => ⟨onlyPcMoves_of_stubbed rfl hm, onlyPcMoves_of_stubbed rfl hm, onlyPcMoves_of_stubbed rfl hm⟩

/-- Settles O32: one register write, and two timer writes, the second of which decides sound_on. -/
theorem timerInstructionsMoveTheTimers : Obligations.TimerInstructionsMoveTheTimers := by
  intro x s
  have hst : ((s.setSt (s.reg x)).advance.emitTrace s.pc (encode (.ldSTVx x))).st = s.reg x :=
    State.emitTrace_st ..
  refine ⟨writesReg_of_setReg rfl, ⟨_, exec_ldDTVx x s, State.emitTrace_dt .., State.emitTrace_pc ..,
    tracedOut_emitTrace _ rfl rfl, ?_⟩, ⟨_, exec_ldSTVx x s, hst, State.emitTrace_pc ..,
    tracedOut_emitTrace _ rfl rfl, ?_, ?_⟩⟩
  · exact ((s.setDt_agree _).append (State.advance_agree _)).emitTrace _ _
  · exact ((s.setSt_agree _).append (State.advance_agree _)).emitTrace _ _
  · rw [State.soundOn_iff, hst]

end Sys2Proof.Machine
end

section
/-! SUPPORT. The address register and the memory transfers (44_index_memory.md R280 to R286): the frames of a write to I
and of a store, the values I receives as numbers, and what an instruction whose data range is checked does. -/

namespace Sys2Proof.Machine

variable {s : State} {i : Instr} {x : Nibble}

/-! ### Frames -/

theorem State.setI_agree (s : State) (a : Word) : AgreeExcept [.iReg] s (s.setI a) := by
  intro p hp
  cases p with
  | iReg => simp at hp
  | mem => exact fun _ => rfl
  | _ => rfl

theorem State.storeBytes_agree (s : State) (a : Nat) (bs : List Byte) :
    AgreeExcept [.mem] s (s.storeBytes a bs) := by
  intro p hp
  cases p with
  | mem => simp at hp
  | _ => rfl

/-! ### Writes to I (44_index_memory.md R280 to R282) -/

theorem writesI_of_setI {a : Word} (h : exec i s = retire i s (.ok (s.setI a).advance)) : WritesI i s a :=
  ⟨_, h, State.emitTrace_iReg .., State.emitTrace_pc .., tracedOut_emitTrace i rfl rfl,
    ((s.setI_agree a).append (State.advance_agree _)).emitTrace _ _⟩

theorem word_add_byte_eq_ofNat (a : Word) (b : Byte) :
    a + b.setWidth 16 = BitVec.ofNat 16 ((a.toNat + b.toNat) % 65536) := by bv_omega

/-- A glyph's address is below 80, so it does not wrap. -/
theorem glyphAddr_eq_ofNat (b : Byte) : glyphAddr b = BitVec.ofNat 16 (b.toNat % 16 * 5) := by
  have hlow : (b &&& 0x0F).toNat = b.toNat % 16 := Nat.and_two_pow_sub_one_eq_mod b.toNat 4
  apply BitVec.eq_of_toNat_eq
  rw [glyphAddr, BitVec.toNat_mul, BitVec.toNat_setWidth, hlow, BitVec.toNat_ofNat,
    Nat.mod_eq_of_lt (a := b.toNat % 16) (by omega)]
  rfl

/-! ### The data range at I (20_memory.md R82, 44_index_memory.md R286) -/

section

variable {n : Nat} {w : State} (h : exec i s = retire i s (checkData (n + 1) s w))
include h

theorem exec_of_checkData_ok (hI : s.iReg.toNat + n ≤ 0xFFF) :
    exec i s = .next (w.emitTrace s.pc (encode i)) := by
  rw [h, checkData_ok (.inr hI), retire_ok]

theorem faultsWith_of_checkData (hhigh : 0xFFF < s.iReg.toNat + n) :
    FaultsWith i s 2 (BitVec.ofNat 16 (max s.iReg.toNat 0x1000)) := by
  rw [checkData_fault n.succ_pos hhigh, retire_error] at h
  exact ⟨_, h, takeFault_entry _ s⟩

end

@[simp] theorem bcdDigits_length (b : Byte) : (bcdDigits b).length = 3 := rfl

/-- A checked store at I puts each byte of its run in place and leaves the other bytes, and moves only pc besides. -/
theorem stores_of_checkData {n : Nat} {bs : List Byte}
    (h : exec i s = retire i s (checkData (n + 1) s (s.storeBytes s.iReg.toNat bs).advance))
    (hlen : bs.length = n + 1) (hm : Memory.wf s.params.font s.mem) (hI : s.iReg.toNat + n ≤ 0xFFF) :
    ∃ t, exec i s = .next t ∧ (∀ k (hk : k < bs.length), t.byteAt (s.iReg.toNat + k) = bs[k]) ∧
      (∀ a, a < s.iReg.toNat ∨ s.iReg.toNat + n < a → t.byteAt a = s.byteAt a) ∧
      t.pc = s.pc + 2 ∧ t.out = tracedOut s i ∧ AgreeExcept [.mem, .pc, .out] s t := by
  have hend : s.iReg.toNat + bs.length ≤ Config.memSize := hlen ▸ Nat.succ_le_succ hI
  refine ⟨_, exec_of_checkData_ok h hI, fun k hk => ?_, fun a ha => ?_, State.emitTrace_pc ..,
    tracedOut_emitTrace i rfl rfl, ((s.storeBytes_agree _ bs).append (State.advance_agree _)).emitTrace _ _⟩
  · rw [State.emitTrace_byteAt, State.advance_byteAt, State.storeBytes_byteAt_inside hm hend hk]
  · rw [State.emitTrace_byteAt, State.advance_byteAt, State.storeBytes_byteAt_outside (by omega)]

end Sys2Proof.Machine
end

section
/-! PROOFS. The address register and the memory transfers (44_index_memory.md R280 to R287). -/

namespace Sys2Proof.Machine

/-- Settles O34: one checked store of the three digits, each of which a byte holds exactly. -/
theorem bcdStoresThreeDigits : Obligations.BcdStoresThreeDigits := by
  intro x s hm
  refine ⟨faultsWith_of_checkData rfl, fun hI => ?_⟩
  obtain ⟨t, hexec, hdigit, hframe⟩ := stores_of_checkData (i := .ldB x) rfl (bcdDigits_length (s.reg x)) hm hI
  refine ⟨t, hexec, ?_, ?_, ?_, hframe⟩
  · rw [← Nat.add_zero s.iReg.toNat, hdigit 0 (by simp)]
    exact Nat.mod_eq_of_lt (by omega)
  · rw [hdigit 1 (by simp)]
    exact Nat.mod_eq_of_lt (by omega)
  · rw [hdigit 2 (by simp)]
    exact Nat.mod_eq_of_lt (by omega)

/-- Settles O35: one checked store of the register block. -/
theorem storeBlockWritesV0ToVx : Obligations.StoreBlockWritesV0ToVx := by
  intro x s hm
  refine ⟨faultsWith_of_checkData rfl, fun hI => ?_⟩
  obtain ⟨t, hexec, hblock, hframe⟩ := stores_of_checkData (i := .storeRegs x) rfl (regBlock_length x s) hm hI
  refine ⟨t, hexec, fun j hj => ?_, hframe⟩
  rw [hblock j.toNat (by rw [regBlock_length]; omega), regBlock_getElem]

/-- Settles O36: the load writes V0 to Vx from memory as it was before the step, and no other part. -/
theorem loadBlockReadsV0ToVx : Obligations.LoadBlockReadsV0ToVx := by
  intro x s
  refine ⟨faultsWith_of_checkData rfl, fun hI => ?_⟩
  have hagree := loadBlock_agree x s
  refine ⟨_, exec_of_checkData_ok rfl hI, fun j hj => ?_, fun j hj => ?_, ?_,
    tracedOut_emitTrace _ (hagree.params (by simp)) (hagree.out (by simp)),
    (hagree.append (State.advance_agree _)).emitTrace _ _⟩
  · rw [State.emitTrace_reg, State.advance_reg, loadBlock_reg, if_pos hj]
  · rw [State.emitTrace_reg, State.advance_reg, loadBlock_reg, if_neg (Nat.not_le.mpr hj)]
  · rw [State.emitTrace_pc, State.advance_pc, hagree.pc (by simp)]

/-- Settles O37, from what the store leaves at I and what the load reads there. -/
theorem storeThenLoadRoundTrips : Obligations.StoreThenLoadRoundTrips := by
  intro x s t r hm hI hexec hrI hkept
  obtain ⟨t', hexec', hstored, -, -, -, hst⟩ := (storeBlockWritesV0ToVx x s hm).2 hI
  obtain rfl := Host.Outcome.next.inj (hexec'.symm.trans hexec)
  have hsame : r.iReg = s.iReg := hrI.trans (hst.iReg (by simp))
  obtain ⟨u, hload, hloaded, -⟩ := (loadBlockReadsV0ToVx x r).2 (hsame ▸ hI)
  refine ⟨u, hload, fun j hj => ?_⟩
  calc u.reg j = r.byteAt (s.iReg.toNat + j.toNat) := hsame ▸ hloaded j hj
    _ = t'.byteAt (s.iReg.toNat + j.toNat) := hkept j.toNat hj
    _ = s.reg j := hstored j hj

/-- Settles O33: each is one write to I, of the value as a number. -/
theorem addressRegisterOps : Obligations.AddressRegisterOps := by
  intro nnn x s
  rw [← addrWord_eq_ofNat, ← word_add_byte_eq_ofNat, ← glyphAddr_eq_ofNat]
  exact ⟨writesI_of_setI rfl, writesI_of_setI rfl, writesI_of_setI rfl⟩

end Sys2Proof.Machine
end

section
/-! SUPPORT. Control state across transitions (60_exceptions.md R324 to R328): the frames of a choice and of a write to a
loop, what messages, ticks and host transactions leave of the choices, and that with sp legal every transition answers a
next state. -/

namespace Sys2Proof.Machine

open Sys2Proof.Config

variable {s t : State} {l : Loop}

/-! ### Choices and writes to a loop -/

theorem State.loop_withAgenda (s : State) (rest : List Action) (l : Loop) :
    ({ s with agenda := rest } : State).loop l = s.loop l := by
  cases l <;> rfl

@[simp] theorem State.setLoop_byteAt (s : State) (l : Loop) (ls : LoopState) (a : Nat) :
    (s.setLoop l ls).byteAt a = s.byteAt a := by
  cases l <;> rfl

theorem State.setLoop_setLoop (s : State) (l : Loop) (ls ls' : LoopState) :
    (s.setLoop l ls).setLoop l ls' = s.setLoop l ls' := by
  cases l <;> rfl

theorem State.setLoop_loop (s : State) (l : Loop) : s.setLoop l (s.loop l) = s := by
  cases l <;> rfl

theorem State.withAgenda_agree (s : State) (rest : List Action) :
    AgreeExcept [.agenda] s { s with agenda := rest } := by
  intro p hp
  cases p with
  | agenda => simp at hp
  | mem => exact fun _ => rfl
  | _ => rfl

theorem State.setLoop_agree (s : State) (l : Loop) (ls : LoopState) :
    AgreeExcept [.cpuLoop, .timerLoop, .displayLoop] s (s.setLoop l ls) := by
  intro p hp
  cases p with
  | cpuLoop | timerLoop | displayLoop => simp at hp
  | mem => exact s.setLoop_byteAt l ls
  | _ => simp [Part.same]

/-- What a transition leaves that uses up its choice and writes one loop's control state. -/
theorem State.chosen_setLoop_agree (s : State) (rest : List Action) (l : Loop) (ls : LoopState) :
    AgreeExcept [.cpuLoop, .timerLoop, .displayLoop, .agenda] s (({ s with agenda := rest } : State).setLoop l ls) :=
  ((s.withAgenda_agree rest).append (State.setLoop_agree _ l ls)).weaken (by simp)

theorem State.chosen_setLoop_other (s : State) (rest : List Action) {l l' : Loop} (h : l' ≠ l) (ls : LoopState) :
    (({ s with agenda := rest } : State).setLoop l ls).loop l' = s.loop l' :=
  (State.loop_setLoop_other _ h ls).trans (s.loop_withAgenda rest l')

/-! ### What messages, ticks and host transactions leave of the choices, queues and passes -/

theorem setRun_sameControl (s : State) (l : Loop) (r : RunFlag) : SameControl s (s.setRun l r) :=
  ⟨by simp [State.setRun], by simp [State.setRun], by simp [State.setRun],
    fun k => by cases l <;> cases k <;> rfl, fun k => by cases l <;> cases k <;> rfl,
    fun k => by cases l <;> cases k <;> rfl⟩

theorem applyMsg_sameControl {m : Msg} (h : applyMsg l m s = .next t) : SameControl s t := by
  cases m with
  | start => cases h; exact setRun_sameControl s l _
  | stop => cases h; exact setRun_sameControl s l _
  | step => exact unitOf_sameControl h

theorem SameControl.refl (s : State) : SameControl s s := ⟨rfl, rfl, rfl, fun _ => rfl, fun _ => rfl, fun _ => rfl⟩

theorem tickTransition_sameControl (h : tickTransition l s = .next t) :
    SameControl (s.setLoop l { s.loop l with due := false, midPass := false }) t := by
  unfold tickTransition at h
  split at h
  · exact unitOf_sameControl h
  · cases h; exact .refl _

theorem passTransition_agenda (h : passTransition l s = .next t) : t.agenda = s.agenda := by
  unfold passTransition at h
  split at h
  · simpa using (tickTransition_sameControl h).agenda
  · split at h
    · simpa using (applyMsg_sameControl h).agenda
    · split at h
      · simpa using (tickTransition_sameControl h).agenda
      · cases h; rfl

/-- No host transaction takes back or adds a choice. -/
theorem hostOp_agenda (op : HostOp) (s : State) : (hostOp op s).agenda = s.agenda := by
  cases op with
  | load bytes => simp only [hostOp, loadProgram]; split <;> rfl
  | keySet k | keyClear k => simp only [hostOp, writeKey]; split <;> rfl
  | keyQuery k => simp only [hostOp, queryKey]; split <;> rfl
  | send l m => exact State.setLoop_agenda ..
  | trigger l => exact State.setLoop_agenda ..
  | reset | readFrame | readStatus | supplyRandom => rfl

/-! ### With sp legal nothing stops (10_state.md R39) -/

theorem unitOf_next (l : Loop) (h : s.sp.toNat ≤ 15) : ∃ t, unitOf l s = .next t := by
  cases l with
  | cpu =>
    simp only [unitOf, cpuUnit]
    split
    · exact ⟨_, rfl⟩
    · split
      · exact exec_next _ h
      · exact ⟨_, rfl⟩
  | timer => exact ⟨_, rfl⟩
  | display => exact ⟨_, rfl⟩

theorem applyMsg_next (l : Loop) (m : Msg) (h : s.sp.toNat ≤ 15) : ∃ t, applyMsg l m s = .next t := by
  cases m with
  | start => exact ⟨_, rfl⟩
  | stop => exact ⟨_, rfl⟩
  | step => exact unitOf_next l h

theorem tickTransition_next (l : Loop) (h : s.sp.toNat ≤ 15) : ∃ t, tickTransition l s = .next t := by
  unfold tickTransition
  split
  · exact unitOf_next l (by simpa using h)
  · exact ⟨_, rfl⟩

theorem passTransition_next (l : Loop) (h : s.sp.toNat ≤ 15) : ∃ t, passTransition l s = .next t := by
  unfold passTransition
  split
  · exact tickTransition_next l h
  · split
    · exact applyMsg_next l _ (by simpa using h)
    · split
      · exact tickTransition_next l h
      · exact ⟨_, rfl⟩

theorem chosenTransition_next (a : Action) (rest : List Action) (h : s.sp.toNat ≤ 15) :
    ∃ t, chosenTransition a rest s = .next t := by
  unfold chosenTransition
  split
  · exact passTransition_next _ h
  · cases a with
    | pass l => exact passTransition_next l h
    | host op => exact ⟨_, rfl⟩

theorem step_next (h : s.sp.toNat ≤ 15) : ∃ t, step s = .next t := by
  cases ha : s.agenda with
  | nil =>
    rw [step_round ha, step_chosen rfl]
    exact chosenTransition_next _ _ h
  | cons a rest =>
    rw [step_chosen ha]
    exact chosenTransition_next a rest h

end Sys2Proof.Machine
end

section
/-! PROOFS. The machine never stops, and each loop is served (20_memory.md R87; 60_exceptions.md R333, R344). The choices
are used up one after another: a blocked send waits for two transitions of its loop's pass at most. -/

namespace Sys2Proof.Machine

open Sys2Proof.Config

variable {s u : State} {l : Loop} {a : Action} {rest : List Action}

/-- A run of one step or more uses up choices until `rest` is left, and ends in a state of the invariant. -/
def State.Drains (s : State) (rest : List Action) : Prop :=
  ∃ u t : State, step s = .next u ∧ u.Reaches t ∧ t.Inv ∧ t.agenda = rest

theorem State.Drains.head (h : step s = .next u) (hu : u.Drains rest) : s.Drains rest := by
  obtain ⟨u', t, hstep, hreach, hinv, ha⟩ := hu
  exact ⟨u, t, h, hreach.head hstep, hinv, ha⟩

theorem State.Drains.reaches (h : s.Drains rest) : ∃ t, s.Reaches t ∧ t.Inv ∧ t.agenda = rest := by
  obtain ⟨u, t, hstep, hreach, hinv, ha⟩ := h
  exact ⟨t, hreach.head hstep, hinv, ha⟩

theorem State.Reaches.trans {s t u : State} (h : s.Reaches t) (k : t.Reaches u) : s.Reaches u := by
  obtain ⟨n, hn⟩ := h
  induction n generalizing s with
  | zero =>
    obtain rfl := Host.Outcome.next.inj hn
    exact k
  | succ n ih =>
    simp only [Host.Core.run] at hn
    split at hn
    · next hstep => exact (ih hn).head hstep
    · cases hn
    · cases hn

/-- A choice that is not blocked is used up by one step. -/
theorem step_uses_choice (ha : s.agenda = a :: rest) (hb : blockedOn a s = none) (h : step s = .next u) :
    u.agenda = rest := by
  cases a with
  | pass l =>
    rw [step_pass ha] at h
    exact passTransition_agenda h
  | host op =>
    rw [step_host ha hb] at h
    cases h
    exact hostOp_agenda op _

theorem drains_of_unblocked (h : s.Inv) (ha : s.agenda = a :: rest) (hb : blockedOn a s = none) : s.Drains rest := by
  obtain ⟨u, hu⟩ := step_next h.sp_legal
  exact ⟨u, u, hu, .refl u, h.step hu, step_uses_choice ha hb hu⟩

/-- Between passes of a loop with a full queue, its next transition takes a message off and frees a slot
(60_exceptions.md R332). -/
theorem passTransition_frees_slot (h : s.Inv) (hfull : queueFull l s = true) (hm : (s.loop l).midPass = false)
    (hp : passTransition l s = .next u) : queueFull l u = false := by
  obtain ⟨d, hd, hlen⟩ := queueFull_eq_true.mp hfull
  have hmax := (h.loop l).2 d hd
  cases hq : (s.loop l).queue with
  | nil => simp [hq] at hlen
  | cons m q =>
    rw [passTransition_message hm hq] at hp
    have hc := applyMsg_sameControl hp
    refine queueFull_eq_false.mpr (.inr ⟨d, by simp [hc.params, hd], ?_⟩)
    rw [hc.queue, State.loop_setLoop_same]
    exact Nat.lt_of_succ_le (by simpa [hq] using hmax)

/-- A blocked send goes through two steps later when no pass of its loop is under way. -/
theorem drains_of_blocked_between_passes {m : Msg} (h : s.Inv) (ha : s.agenda = .host (.send l m) :: rest)
    (hfull : queueFull l s = true) (hm : (s.loop l).midPass = false) : s.Drains rest := by
  obtain ⟨u, hu⟩ := step_next h.sp_legal
  have hp : passTransition l s = .next u := step_blocked ha hfull ▸ hu
  refine .head hu (drains_of_unblocked (h.step hu) ((passTransition_agenda hp).trans ha) ?_)
  simp [blockedOn, passTransition_frees_slot h hfull hm hp]

/-- The first choice is used up: at once, or, for a blocked send, when its loop's pass under way is over and the next one
has taken a message. -/
theorem drains_first_choice (h : s.Inv) (ha : s.agenda = a :: rest) : s.Drains rest := by
  cases hb : blockedOn a s with
  | none => exact drains_of_unblocked h ha hb
  | some l =>
    obtain ⟨m, rfl, hfull⟩ := blockedOn_eq_some hb
    cases hm : (s.loop l).midPass with
    | false => exact drains_of_blocked_between_passes h ha hfull hm
    | true =>
      obtain ⟨u, hu⟩ := step_next h.sp_legal
      have hp : passTransition l s = .next u := step_blocked ha hfull ▸ hu
      have hua : u.agenda = .host (.send l m) :: rest := (passTransition_agenda hp).trans ha
      rw [passTransition_tick (.inl hm)] at hp
      have hc := tickTransition_sameControl hp
      refine .head hu ?_
      cases hfull' : queueFull l u with
      | false => exact drains_of_unblocked (h.step hu) hua (by simp [blockedOn, hfull'])
      | true => exact drains_of_blocked_between_passes (h.step hu) hua hfull' (by simp [hc.midPass])

/-- Any number of choices is used up. -/
theorem reaches_later_choices (h : s.Inv) {before : List Action} (ha : s.agenda = before ++ rest) :
    ∃ t, s.Reaches t ∧ t.Inv ∧ t.agenda = rest := by
  induction before generalizing s with
  | nil => exact ⟨s, .refl s, h, ha⟩
  | cons a before ih =>
    obtain ⟨u, hreach, hinv, hu⟩ := (drains_first_choice h ha).reaches
    obtain ⟨t, hreach', ht⟩ := ih hinv hu
    exact ⟨t, hreach.trans hreach', ht⟩

/-- A pass that stands in the agenda comes to be first in it. -/
theorem reaches_chosen_pass (h : s.Inv) (hl : .pass l ∈ s.agenda) :
    ∃ t, s.Reaches t ∧ ∃ rest, t.agenda = .pass l :: rest := by
  obtain ⟨before, rest, ha⟩ := List.append_of_mem hl
  obtain ⟨t, hreach, -, ht⟩ := reaches_later_choices h ha
  exact ⟨t, hreach, rest, ht⟩

/-- A pass that the next round holds, but not as its first choice, comes to be first in the agenda. -/
theorem reaches_pass_in_next_round (h : s.Inv) (ha : s.agenda = [])
    (hne : (fairRound (freeRound s.rounds)).1 ≠ .pass l) : ∃ t, s.Reaches t ∧ ∃ rest, t.agenda = .pass l :: rest := by
  have hmem : Action.pass l ∈ (fairRound (freeRound s.rounds)).2 :=
    (List.mem_cons.mp (pass_mem_fairRound (freeRound s.rounds) l)).resolve_left (Ne.symm hne)
  obtain ⟨u, t, hstep, hreach, hinv, ht⟩ := drains_first_choice
    (h.choose ((fairRound (freeRound s.rounds)).1 :: (fairRound (freeRound s.rounds)).2) (s.rounds + 1)) rfl
  obtain ⟨t', hreach', ht'⟩ := reaches_chosen_pass hinv (ht ▸ hmem)
  exact ⟨t', (hreach.trans hreach').head ((step_round ha).trans hstep), ht'⟩

/-- Settles O60: with sp legal every step answers a next state. The choices are used up; then the round chosen next holds
a pass of the loop, first in it or among the choices that follow. -/
theorem stepNeverStopsAndServesEveryLoop : Obligations.StepNeverStopsAndServesEveryLoop := by
  intro s h
  refine ⟨step_next h.sp_legal, fun l => ?_⟩
  obtain ⟨t, hreach, hinv, ht⟩ := reaches_later_choices h (List.append_nil s.agenda).symm
  by_cases hl : (fairRound (freeRound t.rounds)).1 = .pass l
  · exact ⟨t, hreach, .inr ⟨ht, hl, step_round_pass ht hl⟩⟩
  · obtain ⟨t', hreach', rest, ht'⟩ := reaches_pass_in_next_round hinv ht hl
    exact ⟨t', hreach.trans hreach', .inl ⟨rest, ht', step_pass ht'⟩⟩

end Sys2Proof.Machine
end

section
/-! PROOFS. The timers, the frame output and the multiplexer (60_exceptions.md R324 to R332). -/

namespace Sys2Proof.Machine

open Sys2Proof.Config

variable {s t : State} {l : Loop}

/-! ### The units of the Timer and Display loops -/

theorem countDown_toNat (b : Byte) : (countDown b).toNat = b.toNat - 1 := by
  unfold countDown
  split
  · next h => simp [h]
  · next h =>
    have hpos : b.toNat ≠ 0 := fun e => h (BitVec.eq_of_toNat_eq e)
    bv_omega

/-- Settles O44: both timers are written by the same count down. -/
theorem timerUnitCountsBothDown : Obligations.TimerUnitCountsBothDown :=
  fun s => ⟨timerUnit s, rfl, countDown_toNat s.dt, countDown_toNat s.st,
    (s.setDt_agree _).append (State.setSt_agree _ _)⟩

/-- Settles O45: the unit is one output. -/
theorem displayUnitOnlyExportsTheFrame : Obligations.DisplayUnitOnlyExportsTheFrame :=
  fun s => ⟨displayUnit s, rfl, rfl, s.emit_agree _⟩

/-- A unit of work keeps its loop's run flag, but for the CPU's fault entry (60_exceptions.md R313). -/
theorem unitOf_run (h : unitOf l s = .next t) :
    (t.loop l).run = (s.loop l).run ∨ (l = .cpu ∧ ∃ code info, FaultEntry code info s t) := by
  cases l with
  | cpu =>
    obtain hfault | ⟨w, -, hloop, -⟩ := cpuUnitCompletesOrIsFaultEntry s t h
    · exact .inr ⟨rfl, hfault⟩
    · exact .inl (congrArg LoopState.run hloop)
  | timer | display => cases h; exact .inl rfl

/-! ### Transitions of a pass -/

theorem applyMsg_setsRun {m : Msg} (hm : m ≠ .step) (l : Loop) (s : State) :
    applyMsg l m s = .next (s.setRun l (if m = .start then .running else .stopped)) := by
  cases m with
  | start | stop => rfl
  | step => exact absurd rfl hm

/-- Settles O46: the message is gone and the tick noted in one write to the loop, the flag in a second. -/
theorem startAndStopSetTheRunFlag : Obligations.StartAndStopSetTheRunFlag := by
  intro s l rest m q ha hmid hq hm
  have hl := s.loop_withAgenda rest l
  have hstep : step s = .next (({ s with agenda := rest } : State).setLoop l
      { run := if m = .start then .running else .stopped, queue := q, due := (s.loop l).due,
        midPass := (s.loop l).due }) := by
    rw [step_pass ha, passTransition_message (by rwa [hl]) (by rwa [hl]), applyMsg_setsRun hm, State.setRun,
      State.setLoop_setLoop, State.loop_setLoop_same, hl]
  exact ⟨_, hstep, State.loop_setLoop_same .., fun _ hl => s.chosen_setLoop_other rest hl _,
    State.setLoop_agenda .., s.chosen_setLoop_agree rest l _⟩

/-- Settles O47: transition A with Step is the loop's unit after one write to the loop, and the unit leaves the queue. -/
theorem stepMessageDoesExactlyOneUnit : Obligations.StepMessageDoesExactlyOneUnit := by
  intro s l rest q ha hmid hq
  have hl := s.loop_withAgenda rest l
  have hstep : step s = unitOf l (({ s with agenda := rest } : State).setLoop l
      { run := (s.loop l).run, queue := q, due := (s.loop l).due, midPass := (s.loop l).due }) := by
    rw [step_pass ha, passTransition_message (by rwa [hl]) (by rwa [hl]), hl]
    rfl
  refine ⟨_, s.chosen_setLoop_agree rest l _, State.setLoop_agenda .., State.loop_setLoop_same ..,
    fun _ hl => s.chosen_setLoop_other rest hl _, hstep, fun t ht => ?_⟩
  have hunit := hstep.symm.trans ht
  have hqueue := (unitOf_sameControl hunit).queue l
  have hrun := unitOf_run hunit
  rw [State.loop_setLoop_same] at hqueue hrun
  exact ⟨hqueue, hrun⟩

/-- Settles O48: transition B consumes the tick in one write to the loop, then the run flag decides. -/
theorem tickWorksOnlyWhenRunning : Obligations.TickWorksOnlyWhenRunning := by
  intro s l rest ha htick
  have hl := s.loop_withAgenda rest l
  have hstep : step s = tickTransition l { s with agenda := rest } :=
    (step_pass ha).trans (passTransition_tick (by rwa [hl]))
  refine ⟨({ s with agenda := rest } : State).setLoop l
    { run := (s.loop l).run, queue := (s.loop l).queue, due := false, midPass := false },
    s.chosen_setLoop_agree rest l _, State.setLoop_agenda .., State.loop_setLoop_same ..,
    fun _ hl => s.chosen_setLoop_other rest hl _, fun hr => ?_, fun hr => ?_⟩
  · rw [hstep, tickTransition_running (by rwa [hl]), hl]
  · rw [hstep, tickTransition_stopped (by rwa [hl]), hl]

/-! ### Triggers and sends -/

/-- A trigger of a loop with a tick due is absorbed (60_exceptions.md R328). -/
theorem triggerLoop_of_due (h : (s.loop l).due = true) : triggerLoop l s = s := by
  have hsame : { s.loop l with due := true } = s.loop l := by rw [← h]
  rw [triggerLoop, hsame, State.setLoop_loop]

/-- Settles O49: a trigger is one write of the due bit; a pass with nothing due is idle. -/
theorem triggersCoalesceAndIdleLoopsWait : Obligations.TriggersCoalesceAndIdleLoopsWait := by
  intro s l rest
  have hl := s.loop_withAgenda rest l
  refine ⟨fun ha => ?_, fun ha hm hq hd => ?_⟩
  · have hstep : step s = .next (triggerLoop l { s with agenda := rest }) := step_host ha rfl
    refine ⟨_, hstep, State.setLoop_agenda .., ?_, fun _ hl => s.chosen_setLoop_other rest hl _,
      s.chosen_setLoop_agree rest l _, fun hd => ?_⟩
    · rw [triggerLoop, State.loop_setLoop_same, hl]
    · rw [triggerLoop_of_due (by rwa [hl])]
      exact s.withAgenda_agree rest
  · rw [step_pass ha]
    exact passTransition_idle (by rwa [hl]) (by rwa [hl]) (by rwa [hl])

/-- Settles O50: with room the send is one write of the queue; without, the step is the loop's pass, which keeps the
agenda. -/
theorem sendIsFifoAndNeverLost : Obligations.SendIsFifoAndNeverLost := by
  intro s l m rest ha
  refine ⟨fun hroom => ?_, fun d hd hlen => ?_⟩
  · have hfree : blockedOn (.host (.send l m)) s = none := by simp [blockedOn, queueFull_eq_false.mpr hroom]
    have hstep : step s = .next (enqueue l m { s with agenda := rest }) := step_host ha hfree
    refine ⟨_, hstep, State.setLoop_agenda .., ?_, fun _ hl => s.chosen_setLoop_other rest hl _,
      s.chosen_setLoop_agree rest l _⟩
    rw [enqueue, State.loop_setLoop_same, s.loop_withAgenda rest l]
  · have hstep := step_blocked ha (queueFull_eq_true.mpr ⟨d, hd, hlen⟩)
    exact ⟨hstep, fun t ht => passTransition_agenda (hstep.symm.trans ht)⟩

end Sys2Proof.Machine
end

section
/-! SUPPORT. Faults (60_exceptions.md R311 to R319): where the raise of a CPU unit's fault entry comes from, and that no
instruction reads the CPU loop's control state, the fault record, the outputs or the trace switch: with those replaced
it does the same. -/

namespace Sys2Proof.Machine

open Sys2Proof.Config

variable {s t : State} {i : Instr} {r : Raise} {code : Byte} {info : Word}

/-! ### Where a fault comes from -/

/-- The raise a CPU unit from `s` can take: the fetch's, the instruction's, or an unimplemented word's under `Fault`. -/
inductive UnitRaises (s : State) : Raise → Prop
  | fetch {r : Raise} (hf : fetch16 s = .error r) : UnitRaises s r
  | instr {r : Raise} {w : Word} {i : Instr} (hf : fetch16 s = .ok w) (hd : decode w = .op i)
      (he : exec i s = .next (takeFault r s)) (hr : r.cause ∈ causesOf i) : UnitRaises s r
  | unimpl {w : Word} (hf : fetch16 s = .ok w) (hd : decode w = .unimplemented w)
      (hp : s.params.unimplPolicy = .faults) : UnitRaises s { cause := .unimplemented, info := w }

/-- Fault entry names its raise. -/
theorem faultEntry_takeFault_iff : FaultEntry code info s (takeFault r s) ↔ code = r.cause.code ∧ info = r.info := by
  constructor
  · intro h
    have hrecord := h.1
    simp only [takeFault_fault, FaultRecord.mk.injEq] at hrecord
    exact ⟨hrecord.1.symm, hrecord.2.2.symm⟩
  · rintro ⟨rfl, rfl⟩
    exact takeFault_entry r s

/-- An instruction's completion is no fault entry: its newest output is no fault report. -/
theorem not_faultEntry_of_completes {w : State} (hw : AgreeExcept effectParts s w) :
    ¬ FaultEntry code info s (w.emitTrace s.pc (encode i)) :=
  fun h => faultEntry_out_ne_traced h (tracedOut_emitTrace i (hw.params (by simp)) (hw.out (by simp)))

theorem exec_faultEntry (he : exec i s = .next t) (h : FaultEntry code info s t) :
    ∃ r, t = takeFault r s ∧ r.cause ∈ causesOf i := by
  have heffect := exec_effect i s
  rw [he] at heffect
  cases heffect with
  | completes w hw => exact absurd h (not_faultEntry_of_completes hw)
  | raises r hr => exact ⟨r, rfl, hr⟩

/-- Under `Continue` an unimplemented word's outputs hold no fault report. -/
theorem not_faultEntry_of_continues (w : Word) (hp : s.params.unimplPolicy = .continues) :
    ¬ FaultEntry code info s (unimplementedWord w s) := by
  intro h
  have hout := h.2.2.1
  rw [unimplementedWord_continues w hp, State.emitTrace_out_append] at hout
  simp only [State.emit_out] at hout
  split at hout <;> simp at hout

/-- A CPU unit that is fault entry took a raise from one of the three sources. -/
theorem cpuUnit_faultEntry (hu : cpuUnit s = .next t) (h : FaultEntry code info s t) :
    ∃ r, UnitRaises s r ∧ t = takeFault r s ∧ code = r.cause.code ∧ info = r.info := by
  suffices hr : ∃ r, UnitRaises s r ∧ t = takeFault r s by
    obtain ⟨r, hraises, rfl⟩ := hr
    exact ⟨r, hraises, rfl, faultEntry_takeFault_iff.mp h⟩
  obtain ⟨r, hf, rfl⟩ | ⟨w, hf, ⟨i, hd, he⟩ | ⟨hd, rfl⟩⟩ := cpuUnit_next hu
  · exact ⟨r, .fetch hf, rfl⟩
  · obtain ⟨r, rfl, hr⟩ := exec_faultEntry he h
    exact ⟨r, .instr hf hd he hr, rfl⟩
  · cases hp : s.params.unimplPolicy with
    | faults => exact ⟨_, .unimpl hf hd hp, unimplementedWord_faults w hp⟩
    | continues => exact absurd h (not_faultEntry_of_continues w hp)

theorem fetch16_eq_error (h : fetch16 s = .error r) : r.cause = .fetchAddr ∧ 0xFFF ≤ s.pc.toNat := by
  unfold fetch16 at h
  split at h
  · cases h
    exact ⟨rfl, by omega⟩
  · cases h

/-- A stubbed key instruction raises nothing (43_keyboard_timers.md R257). -/
theorem keyMode_of_keySkip_faults (he : exec i s = .next (takeFault r s))
    (hi : (∃ x, i = .skp x) ∨ ∃ x, i = .sknp x) : s.params.keyMode = .implemented := by
  cases hm : s.params.keyMode with
  | implemented => rfl
  | stubbed =>
    have hmoves : OnlyPcMoves i s (s.pc + 2) := by
      obtain ⟨x, rfl⟩ | ⟨x, rfl⟩ := hi
      · exact (stubbedKeyInstructionsOnlyAdvance x s hm).1
      · exact (stubbedKeyInstructionsOnlyAdvance x s hm).2.1
    obtain ⟨t, ht, -, hout, -⟩ := hmoves
    obtain rfl := Host.Outcome.next.inj (ht.symm.trans he)
    exact absurd hout (faultEntry_out_ne_traced (takeFault_entry r s))

theorem State.setCpuLoop_agree (s : State) (ls : LoopState) : AgreeExcept [.cpuLoop] s (s.setLoop .cpu ls) := by
  intro p hp
  cases p with
  | cpuLoop => simp at hp
  | mem => exact fun _ => rfl
  | _ => rfl

theorem State.withUnimpl_agree (s : State) (u : UnimplRecord) : AgreeExcept [.unimpl] s { s with unimpl := u } := by
  intro p hp
  cases p with
  | unimpl => simp at hp
  | mem => exact fun _ => rfl
  | _ => rfl

/-! ### What no instruction reads -/

/-- The state with what no instruction reads replaced: the CPU loop's control state, the fault record, the outputs and the
trace switch. -/
def State.mapUnread (c : LoopState → LoopState) (f : FaultRecord → FaultRecord) (o : List Output → List Output)
    (b : Bool) (s : State) : State :=
  { s with cpuLoop := c s.cpuLoop, fault := f s.fault, out := o s.out, params := { s.params with traceEnable := b } }

/-- What one instruction answers from `s` and from `g s`: it completes with the same writes, or takes the same raise, or
stops, from both. -/
inductive Alike (i : Instr) (s : State) (g : State → State) :
    Host.Outcome State Fault Refusal → Host.Outcome State Fault Refusal → Prop
  | completes (w : State) (hw : w.out = s.out) :
      Alike i s g (.next (w.emitTrace s.pc (encode i))) (.next ((g w).emitTrace s.pc (encode i)))
  | raises (r : Raise) : Alike i s g (.next (takeFault r s)) (.next (takeFault r (g s)))
  | stops : Alike i s g (.fault .spOutOfRange) (.fault .spOutOfRange)

section

variable (c : LoopState → LoopState) (f : FaultRecord → FaultRecord) (o : List Output → List Output) (b : Bool)

theorem checkData_alike {n : Nat} {w : State} (hw : w.out = s.out) :
    Alike i s (.mapUnread c f o b) (retire i s (checkData n s w))
      (retire i (s.mapUnread c f o b) (checkData n (s.mapUnread c f o b) (w.mapUnread c f o b))) := by
  have hI : (s.mapUnread c f o b).iReg = s.iReg := rfl
  simp only [checkData, hI]
  split
  · exact .raises _
  · exact .completes w hw

theorem skipOnKey_alike {x : Nibble} (d : Bool → Bool) :
    Alike i s (.mapUnread c f o b) (retire i s (keyMode s (checkKey x s fun held => s.skipIf (d held))))
      (retire i (s.mapUnread c f o b) (keyMode (s.mapUnread c f o b)
        (checkKey x (s.mapUnread c f o b) fun held => (s.mapUnread c f o b).skipIf (d held)))) := by
  have hm : (s.mapUnread c f o b).params.keyMode = s.params.keyMode := rfl
  have hx : (s.mapUnread c f o b).reg x = s.reg x := rfl
  simp only [keyMode, checkKey, hm, hx]
  split
  · split
    · exact .raises _
    · exact .completes _ rfl
  · exact .completes _ rfl

theorem loadBlock_mapUnread (x : Nibble) (s : State) :
    loadBlock x (s.mapUnread c f o b) = (loadBlock x s).mapUnread c f o b :=
  List.foldl_hom (State.mapUnread c f o b) fun _ _ => rfl

theorem waitKey_mapUnread (x : Nibble) (s : State) :
    waitKey x (s.mapUnread c f o b) = (waitKey x s).mapUnread c f o b := by
  have hk : (s.mapUnread c f o b).keys = s.keys := rfl
  simp only [waitKey, hk]
  split <;> rfl

theorem waitKey_out (x : Nibble) (s : State) : (waitKey x s).out = s.out := by
  unfold waitKey
  split <;> rfl

theorem dropDraw_mapUnread (s : State) : (s.mapUnread c f o b).dropDraw = s.dropDraw.mapUnread c f o b := by
  have hd : (s.mapUnread c f o b).draws = s.draws := rfl
  simp only [State.dropDraw, hd]
  split <;> rfl

/-- Every instruction does the same with what it does not read replaced. -/
theorem exec_mapUnread (i : Instr) (s : State) :
    Alike i s (.mapUnread c f o b) (exec i s) (exec i (s.mapUnread c f o b)) := by
  have hsp : (s.mapUnread c f o b).sp = s.sp := rfl
  have hstack (j : Nat) : (s.mapUnread c f o b).stackEntry j = s.stackEntry j := rfl
  cases i
  case call nnn =>
    simp only [exec, execCall, hsp]
    split
    · exact .raises _
    · split
      · exact .stops
      · exact .completes _ rfl
  case ret =>
    simp only [exec, execRet, hsp, hstack]
    split
    · exact .raises _
    · split
      · exact .completes _ rfl
      · exact .stops
  case drw | ldB | storeRegs => exact checkData_alike c f o b rfl
  case loadRegs x =>
    have h := checkData_alike (i := .loadRegs x) (n := x.toNat + 1) c f o b
      (w := (loadBlock x s).advance) ((loadBlock_agree x s).out (by simp))
    rw [exec, exec, execLoadRegs, execLoadRegs, loadBlock_mapUnread]
    exact h
  case skp => exact skipOnKey_alike c f o b id
  case sknp => exact skipOnKey_alike c f o b (!·)
  case ldVxK x =>
    have hm : (s.mapUnread c f o b).params.keyMode = s.params.keyMode := rfl
    simp only [exec, execLdVxK, keyMode, hm, waitKey_mapUnread]
    split
    · exact .completes _ (waitKey_out x s)
    · exact .completes _ rfl
  case rnd x kk =>
    have hout : (s.dropDraw.setReg x (s.nextDraw &&& kk)).advance.out = s.out := s.dropDraw_out
    rw [exec_rnd, exec_rnd, dropDraw_mapUnread]
    exact .completes _ hout
  all_goals exact .completes _ rfl

end

/-- Fault entry from `s`, as a replacement of parts that no instruction reads. -/
def faultWrites (r : Raise) (s : State) : State → State :=
  .mapUnread (fun l => { l with run := .stopped }) (fun _ => { cause := r.cause.code, pc := s.pc, info := r.info })
    (.faultReport r.cause.code s.pc r.info :: ·) s.params.traceEnable

theorem faultWrites_self (r : Raise) (s : State) : faultWrites r s s = takeFault r s := rfl

theorem exec_faultWrites (i : Instr) (r : Raise) (s : State) :
    Alike i s (faultWrites r s) (exec i s) (exec i (takeFault r s)) :=
  exec_mapUnread _ _ _ _ i s

theorem State.withTrace_eq_mapUnread (b : Bool) (s : State) : s.withTrace b = s.mapUnread id id id b := rfl

/-- A fault report on the outputs is not what a completing instruction leaves. -/
theorem takeFault_ne_emitTrace {w : State} {p x : Word} (hw : w.out = s.out) : takeFault r s ≠ w.emitTrace p x := by
  intro h
  have hout := congrArg State.out h
  rw [State.emitTrace_out_append, hw, takeFault_out] at hout
  split at hout <;> simp at hout

theorem Cause.code_injective : Function.Injective Cause.code := by
  intro c d
  cases c <;> cases d <;> decide

/-- The raise can be read off its fault entry. -/
theorem takeFault_injective {r r' : Raise} (h : takeFault r s = takeFault r' s) : r = r' := by
  obtain ⟨hcode, hinfo⟩ := faultEntry_takeFault_iff.mp (h ▸ takeFault_entry r s)
  obtain ⟨c, a⟩ := r
  obtain ⟨c', a'⟩ := r'
  obtain rfl : c = c' := Cause.code_injective hcode
  obtain rfl : a = a' := hinfo
  rfl

/-- After its fault, an instruction takes the same raise again (60_exceptions.md R316). -/
theorem exec_takeFault (he : exec i s = .next (takeFault r s)) :
    exec i (takeFault r s) = .next (takeFault r (takeFault r s)) := by
  have h := exec_faultWrites i r s
  generalize exec i s = a, exec i (takeFault r s) = a' at he h ⊢
  cases h with
  | completes w hw => exact absurd (Host.Outcome.next.inj he).symm (takeFault_ne_emitTrace hw)
  | raises r' =>
    obtain rfl : r' = r := takeFault_injective (Host.Outcome.next.inj he)
    rw [faultWrites_self]
  | stops => cases he

/-- So does a CPU unit. -/
theorem UnitRaises.cpuUnit_takeFault (h : UnitRaises s r) :
    cpuUnit (takeFault r s) = .next (takeFault r (takeFault r s)) := by
  have hfetch : fetch16 (takeFault r s) = fetch16 s := rfl
  cases h with
  | fetch hf => exact cpuUnit_fetchFault (hfetch.trans hf)
  | instr hf hd he => rw [cpuUnit_op (hfetch.trans hf) hd, exec_takeFault he]
  | unimpl hf hd hp => rw [cpuUnit_unimplemented (hfetch.trans hf) hd, unimplementedWord_faults (s := takeFault _ s) _ hp]

/-! ### The trace switch (60_exceptions.md R337) -/

/-- `t'` is what `t` is with the trace switched to `b`, the outputs' trace records aside. -/
def SameButTrace (b : Bool) (t t' : State) : Prop :=
  AgreeExcept [.params, .out] t t' ∧ t'.params = (t.withTrace b).params ∧ t'.untraced = t.untraced

theorem State.withTrace_agree (t : State) (b : Bool) : AgreeExcept [.params] t (t.withTrace b) := by
  intro p hp
  cases p with
  | params => simp at hp
  | mem => exact fun _ => rfl
  | _ => rfl

@[simp] theorem State.emitTrace_untraced (t : State) (p w : Word) : (t.emitTrace p w).untraced = t.untraced := by
  rw [State.untraced, State.emitTrace_out_append]
  split <;> rfl

theorem sameButTrace_withTrace (b : Bool) (t : State) : SameButTrace b t (t.withTrace b) :=
  ⟨(t.withTrace_agree b).weaken (by simp), rfl, rfl⟩

theorem sameButTrace_emitTrace (b : Bool) (t : State) (p w : Word) :
    SameButTrace b (t.emitTrace p w) ((t.withTrace b).emitTrace p w) := by
  refine ⟨fun q hq => ?_, ?_, ?_⟩
  · cases q with
    | params | out => simp at hq
    | mem => intro a; rw [State.emitTrace_byteAt, State.emitTrace_byteAt]; rfl
    | _ => simp [Part.same, State.withTrace]
  · simp [State.withTrace]
  · rw [State.emitTrace_untraced, State.emitTrace_untraced]
    rfl

/-- One instruction with the trace switched. -/
theorem exec_withTrace (b : Bool) (he : exec i s = .next t) :
    ∃ t', exec i (s.withTrace b) = .next t' ∧ SameButTrace b t t' := by
  have h := exec_mapUnread id id id b i s
  rw [← State.withTrace_eq_mapUnread, he] at h
  generalize exec i (s.withTrace b) = a' at h ⊢
  generalize ha : Host.Outcome.next t = a at h
  cases h with
  | completes w hw =>
    cases ha
    exact ⟨_, rfl, sameButTrace_emitTrace b w _ _⟩
  | raises r =>
    cases ha
    exact ⟨_, rfl, sameButTrace_withTrace b _⟩
  | stops => cases ha

theorem unimplementedWord_withTrace (b : Bool) (w : Word) (s : State) :
    SameButTrace b (unimplementedWord w s) (unimplementedWord w (s.withTrace b)) := by
  cases hp : s.params.unimplPolicy with
  | faults =>
    rw [unimplementedWord_faults w hp, unimplementedWord_faults (s := s.withTrace b) w hp]
    exact sameButTrace_withTrace b _
  | continues =>
    rw [unimplementedWord_continues w hp, unimplementedWord_continues (s := s.withTrace b) w hp]
    exact sameButTrace_emitTrace b _ _ _

theorem cpuUnit_withTrace (b : Bool) (hu : cpuUnit s = .next t) :
    ∃ t', cpuUnit (s.withTrace b) = .next t' ∧ SameButTrace b t t' := by
  have hfetch : fetch16 (s.withTrace b) = fetch16 s := rfl
  obtain ⟨r, hf, rfl⟩ | ⟨w, hf, ⟨i, hd, he⟩ | ⟨hd, rfl⟩⟩ := cpuUnit_next hu
  · exact ⟨_, cpuUnit_fetchFault (hfetch.trans hf), sameButTrace_withTrace b _⟩
  · rw [cpuUnit_op (hfetch.trans hf) hd]
    exact exec_withTrace b he
  · exact ⟨_, cpuUnit_unimplemented (hfetch.trans hf) hd, unimplementedWord_withTrace b w s⟩

end Sys2Proof.Machine
end

section
/-! PROOFS. Faults, quiescence, the trace switch, and what instructions leave of the control layer (60_exceptions.md R312
to R319, R337, R340, R344). -/

namespace Sys2Proof.Machine

open Sys2Proof.Config

/-- Settles O9: by where the unit's raise came from; of the instructions, each has its own causes. -/
theorem onlyListedInstructionsFault : Obligations.OnlyListedInstructionsFault := by
  intro s t code info hu h
  obtain ⟨r, hraises, -, rfl, -⟩ := cpuUnit_faultEntry hu h
  cases hraises with
  | fetch hf =>
    obtain ⟨hcause, hpc⟩ := fetch16_eq_error hf
    exact .inl ⟨by rw [hcause]; rfl, hpc⟩
  | unimpl hf hd hp => exact .inr ⟨_, hf, .inl ⟨rfl, hd, hp⟩⟩
  | @instr _ w i hf hd he hr =>
    refine .inr ⟨w, hf, .inr ?_⟩
    cases i
    case call nnn =>
      rw [List.mem_singleton.mp hr]
      exact .inl ⟨rfl, nnn, hd⟩
    case ret =>
      rw [List.mem_singleton.mp hr]
      exact .inr (.inl ⟨rfl, hd⟩)
    case drw | ldB | storeRegs | loadRegs =>
      rw [List.mem_singleton.mp hr]
      exact .inr (.inr (.inl ⟨rfl, by simp [hd]⟩))
    case skp | sknp =>
      rw [List.mem_singleton.mp hr]
      exact .inr (.inr (.inr ⟨rfl, keyMode_of_keySkip_faults he (by simp), by simp [hd]⟩))
    all_goals cases hr

/-- Settles O11: nothing that fault entry writes is read by the unit that took it. -/
theorem faultRepeatsUntilTheHostChangesSomething : Obligations.FaultRepeatsUntilTheHostChangesSomething := by
  intro s t code info hu h
  obtain ⟨r, hraises, rfl, rfl, rfl⟩ := cpuUnit_faultEntry hu h
  exact ⟨_, hraises.cpuUnit_takeFault, takeFault_entry r _, rfl⟩

/-- Settles O41: these parts are outside an instruction's effect, and fault entry writes the last two alone. -/
theorem instructionsLeaveControlStateAlone : Obligations.InstructionsLeaveControlStateAlone := by
  intro i s t he
  obtain ⟨hagenda, -, hparams, hqueue, hdue, hmid⟩ := exec_sameControl he
  have hrest : t.timerLoop = s.timerLoop ∧ t.displayLoop = s.displayLoop ∧ t.unimpl = s.unimpl ∧
      ((t.cpuLoop.run ≠ s.cpuLoop.run ∨ t.fault ≠ s.fault) → ∃ code info, FaultEntry code info s t) := by
    obtain ⟨code, info, hfault⟩ | ⟨w, hw, rfl⟩ := exec_faults_or_completes he
    · have ⟨_, _, _, hst⟩ := hfault
      exact ⟨hst.timerLoop (by simp), hst.displayLoop (by simp), hst.unimpl (by simp), fun _ => ⟨code, info, hfault⟩⟩
    · simp [hw.timerLoop (by simp), hw.displayLoop (by simp), hw.unimpl (by simp), hw.cpuLoop (by simp),
        hw.fault (by simp)]
  obtain ⟨htimer, hdisplay, hunimpl, hrun⟩ := hrest
  exact ⟨htimer, hdisplay, hunimpl, hparams, hagenda, hqueue .cpu, hdue .cpu, hmid .cpu, hrun⟩

/-- Settles O42: no instruction reads the switch, and a unit of work is an instruction, fault entry or an unimplemented
word. -/
theorem traceSwitchChangesNothingElse : Obligations.TraceSwitchChangesNothingElse :=
  fun _ _ b => ⟨fun _ he => exec_withTrace b he, fun hu => cpuUnit_withTrace b hu⟩

/-- Settles O51: a Stopped loop with no message can only consume its tick; fault entry stops the loop and leaves its
queue. -/
theorem quiescentCpuExecutesNothing : Obligations.QuiescentCpuExecutesNothing := by
  refine ⟨fun s rest ⟨hrun, hqueue⟩ ha => ?_, fun s t code info _ h => ?_⟩
  · have hstep := step_pass ha
    by_cases htick : s.cpuLoop.midPass = true ∨ s.cpuLoop.queue = [] ∧ s.cpuLoop.due = true
    · have htake := (passTransition_tick (s := { s with agenda := rest }) (l := .cpu) htick).trans
        (tickTransition_stopped hrun)
      exact ⟨_, hstep.trans htake, ⟨hrun, hqueue⟩, rfl,
        ((s.withAgenda_agree rest).append (State.setCpuLoop_agree _ _)).weaken (by simp)⟩
    · obtain ⟨hmid, hdue⟩ := not_or.mp htick
      have hidle := passTransition_idle (s := { s with agenda := rest }) (l := .cpu) (Bool.of_not_eq_true hmid) hqueue
        (Bool.of_not_eq_true fun hd => hdue ⟨hqueue, hd⟩)
      exact ⟨_, hstep.trans hidle, ⟨hrun, hqueue⟩, rfl, (s.withAgenda_agree rest).weaken (by simp)⟩
  · obtain ⟨-, hloop, -⟩ := h
    simp [State.CpuQuiescent, hloop]

/-- Settles O8: each policy's answer is written out in the model. -/
theorem unimplementedWordContinuesOrFaults : Obligations.UnimplementedWordContinuesOrFaults := by
  intro s w hf hd
  have hu := cpuUnit_unimplemented hf hd
  refine ⟨fun hp => ?_, fun hp => ?_⟩
  · rw [unimplementedWord_continues w hp] at hu
    refine ⟨_, hu, State.emitTrace_unimpl .., State.emitTrace_pc .., State.emitTrace_out_append .., ?_⟩
    exact ((((s.withUnimpl_agree _).append (State.advance_agree _)).append (State.emit_agree _ _)).emitTrace
      _ _).weaken (by simp)
  · rw [unimplementedWord_faults w hp] at hu
    exact ⟨_, hu, takeFault_entry _ s⟩

end Sys2Proof.Machine
end

section
/-! SUPPORT. The host's transactions (60_exceptions.md R335, R336): what each key operation does by its key number, and
the parts, run flags and passes that no transaction but reset writes. -/

namespace Sys2Proof.Machine

variable {s : State} {k j : Nat} {c : Bool}

/-! ### Key operations -/

theorem keyBit_getLsbD (hj : j < 16) : (1#16 <<< k).getLsbD j = decide (j = k) := by
  rw [BitVec.getLsbD_shiftLeft, BitVec.getLsbD_one]
  by_cases h : j = k
  · simp [h, h ▸ hj]
  · simp [h]; omega

theorem writeKey_accepted (hk : k ≤ 15) :
    writeKey k c s = s.setKeys (if c then s.keys ||| (1#16 <<< k) else s.keys &&& ~~~(1#16 <<< k)) :=
  if_neg (Nat.not_lt.mpr hk)

theorem writeKey_refused (hk : 15 < k) : writeKey k c s = s.emit (.keyRefused k) := if_pos hk

theorem queryKey_accepted (hk : k ≤ 15) : queryKey k s = s.emit (.keyState k (s.keys.getLsbD k)) :=
  if_neg (Nat.not_lt.mpr hk)

theorem queryKey_refused (hk : 15 < k) : queryKey k s = s.emit (.keyRefused k) := if_pos hk

/-- `keys[k] <- c` writes bit k alone. -/
theorem writeKey_getLsbD (hk : k ≤ 15) (hj : j < 16) :
    (writeKey k c s).keys.getLsbD j = if j = k then c else s.keys.getLsbD j := by
  rw [writeKey_accepted hk, State.setKeys_keys]
  cases c with
  | true =>
    rw [if_pos rfl, BitVec.getLsbD_or, keyBit_getLsbD hj]
    by_cases h : j = k
    · simp only [h, decide_true, Bool.or_true, if_true]
    · simp only [h, decide_false, Bool.or_false, if_false]
  | false =>
    rw [if_neg Bool.false_ne_true, BitVec.getLsbD_and, BitVec.getLsbD_not, keyBit_getLsbD hj]
    by_cases h : j = k
    · simp only [h, decide_true, Bool.not_true, Bool.and_false, if_true]
    · simp only [h, hj, decide_false, decide_true, Bool.not_false, Bool.and_true, if_false]

theorem State.setKeys_agree (s : State) (w : Word) : AgreeExcept [.keys] s (s.setKeys w) := by
  intro p hp
  cases p with
  | keys => simp at hp
  | mem => exact fun _ => rfl
  | _ => rfl

theorem writeKey_agree (k : Nat) (c : Bool) (s : State) : AgreeExcept [.keys, .out] s (writeKey k c s) := by
  unfold writeKey
  split
  · exact (s.emit_agree _).weaken (by simp)
  · exact (s.setKeys_agree _).weaken (by simp)

theorem queryKey_agree (k : Nat) (s : State) : AgreeExcept [.out] s (queryKey k s) := by
  unfold queryKey
  split <;> exact s.emit_agree _

/-- A step that is key_set or key_clear (60_exceptions.md R336) writes bit k alone, or refuses. -/
theorem step_writeKey {op : HostOp} {rest : List Action} (ha : s.agenda = .host op :: rest)
    (hb : blockedOn (.host op) s = none) (hop : ∀ u, hostOp op u = writeKey k c u) :
    ∃ t, step s = .next t ∧ t.agenda = rest ∧ AgreeExcept [.keys, .agenda, .out] s t ∧
      (k ≤ 15 → (∀ j, j < 16 → j ≠ k → t.keys.getLsbD j = s.keys.getLsbD j) ∧ t.keys.getLsbD k = c ∧ t.out = s.out) ∧
      (15 < k → t.keys = s.keys ∧ t.out = .keyRefused k :: s.out) := by
  refine ⟨_, step_host ha hb, hostOp_agenda .., ?_, fun hk => ⟨fun j hj hne => ?_, ?_, ?_⟩, fun hk => ?_⟩
  all_goals rw [hop]
  · exact ((s.withAgenda_agree rest).append (writeKey_agree k c _)).weaken (by simp)
  · rw [writeKey_getLsbD hk hj, if_neg hne]
  · rw [writeKey_getLsbD hk (Nat.lt_succ_of_le hk), if_pos rfl]
  · rw [writeKey_accepted hk, State.setKeys_out]
  · rw [writeKey_refused hk]
    exact ⟨rfl, rfl⟩

/-! ### What no transaction but reset writes -/

variable {op : HostOp}

theorem State.withDraws_agree (s : State) (bs : List Byte) : AgreeExcept [.draws] s { s with draws := bs } := by
  intro p hp
  cases p with
  | draws => simp at hp
  | mem => exact fun _ => rfl
  | _ => rfl

theorem loadProgram_agree (bytes : List Byte) (s : State) : AgreeExcept [.mem, .out] s (loadProgram bytes s) := by
  unfold loadProgram
  split
  · exact (s.storeBytes_agree _ _).append (State.emit_agree _ _)
  · exact (s.emit_agree _).weaken (by simp)

theorem hostOp_agree (h : op ≠ .reset) (s : State) :
    AgreeExcept [.mem, .keys, .cpuLoop, .timerLoop, .displayLoop, .draws, .out] s (hostOp op s) := by
  cases op with
  | reset => exact absurd rfl h
  | load bytes => exact (loadProgram_agree bytes s).weaken (by simp)
  | send l m => exact (s.setLoop_agree l _).weaken (by simp)
  | trigger l => exact (s.setLoop_agree l _).weaken (by simp)
  | keySet k => exact (writeKey_agree k true s).weaken (by simp)
  | keyClear k => exact (writeKey_agree k false s).weaken (by simp)
  | keyQuery k => exact (queryKey_agree k s).weaken (by simp)
  | readFrame => exact (s.emit_agree _).weaken (by simp)
  | readStatus => exact (s.emit_agree _).weaken (by simp)
  | supplyRandom b => exact (s.withDraws_agree _).weaken (by simp)

/-- A frame that excepts no loop. -/
theorem AgreeExcept.loop {t : State} {ps : List Part} (h : AgreeExcept ps s t) (hc : Part.cpuLoop ∉ ps)
    (ht : Part.timerLoop ∉ ps) (hd : Part.displayLoop ∉ ps) : ∀ l, t.loop l = s.loop l
  | .cpu => h.cpuLoop hc
  | .timer => h.timerLoop ht
  | .display => h.displayLoop hd

/-- A send writes a loop's queue and a trigger its due bit; the others write no loop. -/
theorem hostOp_loop (h : op ≠ .reset) (s : State) (l : Loop) :
    ((hostOp op s).loop l).run = (s.loop l).run ∧ ((hostOp op s).loop l).midPass = (s.loop l).midPass := by
  cases op with
  | reset => exact absurd rfl h
  | send l' m | trigger l' => cases l' <;> cases l <;> exact ⟨rfl, rfl⟩
  | load bytes => simp [hostOp, (loadProgram_agree bytes s).loop]
  | keySet k | keyClear k => simp [hostOp, (writeKey_agree k _ s).loop]
  | keyQuery k => simp [hostOp, (queryKey_agree k s).loop]
  | readFrame | readStatus | supplyRandom => cases l <;> exact ⟨rfl, rfl⟩

theorem hostOp_draws (h : ∀ b, op ≠ .supplyRandom b) (s : State) : (hostOp op s).draws = s.draws := by
  cases op with
  | supplyRandom b => exact absurd rfl (h b)
  | load bytes => exact (loadProgram_agree bytes s).draws (by simp)
  | send l m => exact State.setLoop_draws ..
  | trigger l => exact State.setLoop_draws ..
  | keySet k => exact (writeKey_agree k true s).draws (by simp)
  | keyClear k => exact (writeKey_agree k false s).draws (by simp)
  | keyQuery k => exact (queryKey_agree k s).draws (by simp)
  | reset | readFrame | readStatus => rfl

end Sys2Proof.Machine
end

section
/-! PROOFS. Host operations (60_exceptions.md R335, R336, R338). -/

namespace Sys2Proof.Machine

/-- Settles O53: set and clear are one write of a bit, query one answer; none is ever blocked. -/
theorem keyOperationsActOnOneKey : Obligations.KeyOperationsActOnOneKey := by
  intro s k op rest ha hop
  obtain rfl | rfl | rfl := hop
  · obtain ⟨t, hs, hrest, hst, haccepted, hrefused⟩ := step_writeKey ha rfl (k := k) (c := true) fun _ => rfl
    exact ⟨t, hs, hrest, hst, fun hk => ⟨(haccepted hk).1, fun _ => (haccepted hk).2, nofun, nofun⟩, hrefused⟩
  · obtain ⟨t, hs, hrest, hst, haccepted, hrefused⟩ := step_writeKey ha rfl (k := k) (c := false) fun _ => rfl
    exact ⟨t, hs, hrest, hst, fun hk => ⟨(haccepted hk).1, nofun, fun _ => (haccepted hk).2, nofun⟩, hrefused⟩
  · have hst := queryKey_agree k { s with agenda := rest }
    have hkeys := hst.keys (by simp)
    refine ⟨_, step_host ha rfl, hostOp_agenda .., ?_, fun hk => ?_, fun hk => ⟨hkeys, ?_⟩⟩
    · exact ((s.withAgenda_agree rest).append hst).weaken (by simp)
    · exact ⟨fun j _ _ => congrArg (BitVec.getLsbD · j) hkeys, nofun, nofun,
        fun _ => ⟨hkeys, congrArg State.out (queryKey_accepted hk)⟩⟩
    · exact congrArg State.out (queryKey_refused hk)

/-- Settles O54: the step is the transaction, whose frame, loops and draws are said once for all of them. -/
theorem hostCannotWriteProcessorState : Obligations.HostCannotWriteProcessorState := by
  intro s t op rest ha hb hs hne
  obtain rfl := Host.Outcome.next.inj ((step_host ha hb).symm.trans hs)
  have hagenda := s.withAgenda_agree rest
  refine ⟨(hagenda.append (hostOp_agree hne _)).weaken (by simp), fun l => s.loop_withAgenda rest l ▸ hostOp_loop hne _ l,
    ?_, fun h => hostOp_draws h _, ?_, ?_⟩
  · rintro b rfl
    exact ⟨rfl, hagenda.append (State.withDraws_agree _ _)⟩
  · rintro rfl
    exact ⟨rfl, hagenda.append (State.emit_agree _ _)⟩
  · rintro rfl
    exact ⟨hagenda.append (State.emit_agree _ _), rfl⟩

end Sys2Proof.Machine
end

section
/-! SUPPORT. What reset keeps of the state, and where it is power-on (70_reset_and_hazards.md R390, R391). -/

namespace Sys2Proof.Machine

/-- Reset is power-on under the machine's parameters but for the parts the environment holds (log 11). -/
theorem resetMachine_agree (s : State) :
    AgreeExcept [.out, .agenda, .rounds, .draws, .drawCount] (State.powerOn s.params) (resetMachine s) := by
  intro p hp
  cases p with
  | out | agenda | rounds | draws | drawCount => simp at hp
  | mem => exact fun _ => rfl
  | _ => rfl

end Sys2Proof.Machine
end

section
/-! PROOFS. Reset as a transaction (70_reset_and_hazards.md R390, R391). -/

namespace Sys2Proof.Machine

/-- Settles O57: a reset is never blocked, so the step is the transaction, after its choice has left the agenda. -/
theorem resetTransactionRestoresPowerOn : Obligations.ResetTransactionRestoresPowerOn := fun s rest ha =>
  ⟨hostOp .reset { s with agenda := rest }, step_host ha rfl, rfl, rfl, rfl, rfl, rfl,
    resetMachine_agree { s with agenda := rest }⟩

end Sys2Proof.Machine
end
